-- ==== Sys2Proof/Word.lean ====
section
/-! DEFINITION. The word types of the block's interfaces (spec/00_scope.md R9, R11; spec/20_memory.md R60, R63). -/

namespace Sys2Proof

/-- A 64-bit register value, operand or result (R7, R62). -/
abbrev Word := BitVec 64

/-- An MSR address: a register number of `ADDR_WIDTH` = 32 bits, not a byte address (R60, R70). -/
abbrev MsrAddr := BitVec 32

/-- A collaborator error code of `IOCODE_WIDTH` = 32 bits (R63). -/
abbrev IoCode := BitVec 32

/-- The 16-bit command word `CMD` (R90). -/
abbrev CmdWord := BitVec 16

end Sys2Proof
end

