-- ==== Sys2Proof/Config.lean ====
section
/-! DEFINITION. The configuration of a run (spec/00_scope.md R9, R10) and the constants R9 fixes. A model takes the `OPEN`
parameters and the bounds as arguments: they are the fields of `Config`, which State carries unchanged. -/

namespace Sys2Proof

/-- The parameters of R9 that an implementation sets: the six bounds of R10, `MASK_WIDTH` and `HWCR_ADDR`. -/
structure Config where
  fidMin : Nat
  fidMax : Nat
  didMin : Nat
  didMax : Nat
  vidMin : Nat
  vidMax : Nat
  maskWidth : Nat
  hwcrAddr : MsrAddr
deriving DecidableEq, Repr

/-- The defaults of R9. `hwcrAddr` is PRESUMED: R9 and D16 take it from general knowledge (assumption 3). -/
def Config.standard : Config where
  fidMin := 0x10
  fidMax := 0xFF
  didMin := 0x08
  didMax := 0x1A
  vidMin := 0x20
  vidMax := 0xA8
  maskWidth := 64
  hwcrAddr := 0xC0010015#32

/-- `PSTATE_BASE` (R9). -/
def pstateBase : MsrAddr := 0xC0010064#32

/-- `PSTATE_LAST` (R9). -/
def pstateLast : MsrAddr := 0xC001006B#32

/-- `TSC_LOCK_BIT` (R9). -/
def tscLockBit : Nat := 21

end Sys2Proof
end

