-- ==== Sys2Proof/Syntax.lean ====
section
/-! DEFINITION. The commands of the block (spec/30_encoding.md R90, R95, R96): one constructor per row of the opcode map.
A constructor carries the operands its command uses, at their full 64 bits (R97); an operand a command ignores (R92, R96) is
no part of it. -/

namespace Sys2Proof

/-- One legal command, its used operands assembled (R95, R96). Every operand admits every 64-bit value (R97), so a term
of this type has no ill-formed case. -/
inductive Instr where
  | chkplat
  | construct (index raw : Word)
  | getfid
  | getdid
  | getvid
  | setfid (value : Word)
  | setdid (value : Word)
  | setvid (value : Word)
  | encode
  | ratio (fid did : Word)
  | freq (fid did : Word)
  | vcore (vid : Word)
  | ratior
  | freqr
  | vcorer
  | describe
  | addrfor (index : Word)
  | apply
deriving DecidableEq, Repr

/-- What the host presents on the command interface: the command word and the two operand words, always present
(R90, R94). -/
structure Command where
  cmd : CmdWord
  opa : Word
  opb : Word
deriving DecidableEq, Repr

end Sys2Proof
end

