-- ==== Sys2Proof/WellFormed.lean ====
section
/-! DEFINITION. The two well-formedness checks of the spec: a configuration (spec/00_scope.md R10, with `MASK_WIDTH` in the
range D18 gives it) and a command word (spec/30_encoding.md R98). An `Instr` needs none: every operand value is admitted
(R97). -/

namespace Sys2Proof

/-- A configuration a model accepts (R10; `MASK_WIDTH >= 1` is D18, assumption 3). -/
def Config.wf (c : Config) : Bool :=
  decide (c.fidMin ≤ c.fidMax) && decide (c.fidMax ≤ 0xFF) &&
  decide (c.didMin ≤ c.didMax) && decide (c.didMax ≤ 0x3F) &&
  decide (c.vidMin ≤ c.vidMax) && decide (c.vidMax ≤ 0xFF) &&
  decide (1 ≤ c.didMin) && decide (1 ≤ c.maskWidth)

/-- A command word that is not illegal (R98): the reserved byte is zero and the opcode is one of 0x01..0x12. -/
def Command.legal (c : Command) : Bool :=
  decide (c.cmd.toNat / 256 = 0) && decide (1 ≤ c.cmd.toNat % 256) && decide (c.cmd.toNat % 256 ≤ 0x12)

end Sys2Proof
end

