-- ==== Sys2Proof/Decode.lean ====
section
/-! DEFINITION. The decoder and the encoder of the command word (spec/30_encoding.md R93 to R100). The decoder is total:
it answers a command or the reason the word is illegal. -/

namespace Sys2Proof

/-- Why a command word is illegal: the three cases of R98. -/
inductive IllegalWord where
  /-- `CMD[15:8] != 0x00`. -/
  | reservedBits
  /-- `CMD[7:0] = 0x00`. -/
  | opcodeZero
  /-- `CMD[7:0] >= 0x13`. -/
  | opcodeUnassigned
deriving DecidableEq, Repr

/-- What the decoder answers. -/
inductive Decoded where
  | legal (i : Instr)
  | illegal (why : IllegalWord)
deriving DecidableEq, Repr

/-- The reserved field of the command word (R93). -/
def rsvField (w : CmdWord) : BitVec 8 := w.extractLsb' 8 8

/-- The opcode field of the command word (R93). -/
def opField (w : CmdWord) : BitVec 8 := w.extractLsb' 0 8

/-- The opcode map of R95 with the operand assembly of R96. -/
def decodeOp (op : Nat) (a b : Word) : Decoded :=
  match op with
  | 0x00 => .illegal .opcodeZero
  | 0x01 => .legal .chkplat
  | 0x02 => .legal (.construct a b)
  | 0x03 => .legal .getfid
  | 0x04 => .legal .getdid
  | 0x05 => .legal .getvid
  | 0x06 => .legal (.setfid a)
  | 0x07 => .legal (.setdid a)
  | 0x08 => .legal (.setvid a)
  | 0x09 => .legal .encode
  | 0x0A => .legal (.ratio a b)
  | 0x0B => .legal (.freq a b)
  | 0x0C => .legal (.vcore a)
  | 0x0D => .legal .ratior
  | 0x0E => .legal .freqr
  | 0x0F => .legal .vcorer
  | 0x10 => .legal .describe
  | 0x11 => .legal (.addrfor a)
  | 0x12 => .legal .apply
  | _ => .illegal .opcodeUnassigned

/-- The decoder of R100: the reserved byte first, then the opcode. -/
def decode (c : Command) : Decoded :=
  if rsvField c.cmd = 0#8 then decodeOp (opField c.cmd).toNat c.opa c.opb
  else .illegal .reservedBits

/-- The opcode of a command (R95). -/
def opcodeOf (i : Instr) : BitVec 8 :=
  match i with
  | .chkplat => 0x01#8
  | .construct _ _ => 0x02#8
  | .getfid => 0x03#8
  | .getdid => 0x04#8
  | .getvid => 0x05#8
  | .setfid _ => 0x06#8
  | .setdid _ => 0x07#8
  | .setvid _ => 0x08#8
  | .encode => 0x09#8
  | .ratio _ _ => 0x0A#8
  | .freq _ _ => 0x0B#8
  | .vcore _ => 0x0C#8
  | .ratior => 0x0D#8
  | .freqr => 0x0E#8
  | .vcorer => 0x0F#8
  | .describe => 0x10#8
  | .addrfor _ => 0x11#8
  | .apply => 0x12#8

/-- The operand words of a command in the order `OPA`, `OPB` (R96); an operand the command ignores is written 0, as an
omitted one is (R101). -/
def operandsOf (i : Instr) : Word × Word :=
  match i with
  | .construct index raw => (index, raw)
  | .setfid value => (value, 0#64)
  | .setdid value => (value, 0#64)
  | .setvid value => (value, 0#64)
  | .ratio fid did => (fid, did)
  | .freq fid did => (fid, did)
  | .vcore vid => (vid, 0#64)
  | .addrfor index => (index, 0#64)
  | .chkplat => (0#64, 0#64)
  | .getfid => (0#64, 0#64)
  | .getdid => (0#64, 0#64)
  | .getvid => (0#64, 0#64)
  | .encode => (0#64, 0#64)
  | .ratior => (0#64, 0#64)
  | .freqr => (0#64, 0#64)
  | .vcorer => (0#64, 0#64)
  | .describe => (0#64, 0#64)
  | .apply => (0#64, 0#64)

/-- The encoder of R100: the word `0x00 || op`, with the operand words. -/
def encode (i : Instr) : Command :=
  ⟨(opcodeOf i).setWidth 16, (operandsOf i).1, (operandsOf i).2⟩

/-- The command whose words are the low `nbits` bits of `w`: `CMD` in bits 15..0, `OPA` in 79..16, `OPB` in 143..80, and
every bit above `nbits` zero (assumption 15). -/
def commandOfBits (nbits w : Nat) : Command :=
  let v := w % 2 ^ nbits
  ⟨BitVec.ofNat 16 v, BitVec.ofNat 64 (v >>> 16), BitVec.ofNat 64 (v >>> 80)⟩

/-- The instruction the decoder reads from the bits `w` of an instruction `nbits` bits long. -/
def decodeTableWord (nbits w : Nat) : Option Instr :=
  match decode (commandOfBits nbits w) with
  | .legal i => some i
  | .illegal _ => none

end Sys2Proof
end

