-- ==== Sys2Proof/Machine/State.lean ====
section
/-! DEFINITION. The machine's state (spec/10_state.md): the block registers, the observation, the configuration, the
environment and, as the model's own input, the moves of the host and the draws of the collaborator. Plain data throughout. -/

namespace Sys2Proof.Machine

/-- `seq.phase` (R26). -/
inductive Phase where
  | idle
  | platWait
  | topoWait
  | tscRdWait
  | tscWrWait
  | bcWrWait
deriving DecidableEq, Repr

/-- The slot, which holds the one PStateRegister the block works on (R21). -/
structure Slot where
  valid : Bool
  index : BitVec 3
  raw : Word
deriving DecidableEq, Repr

/-- The sequencer registers of the apply engine (R25); `n` is `seq.N`. -/
structure Seq where
  phase : Phase
  k : Word
  n : Word
  addr : MsrAddr
  value : Word
  tsc : Bool
  hw : Word
deriving DecidableEq, Repr

/-- The error-information registers `ERR_*` (R28). -/
structure ErrInfo where
  field : BitVec 2
  bound : BitVec 2
  limit : Word
  value : Word
  core : Word
  addr : MsrAddr
  ioop : BitVec 2
  iocode : IoCode
deriving DecidableEq, Repr

/-- The result registers `RES0` .. `RES5` (R29). -/
structure Results where
  res0 : Word
  res1 : Word
  res2 : Word
  res3 : Word
  res4 : Word
  res5 : Word
deriving DecidableEq, Repr

/-- The answer to a request: `Ok` with what it carries, or `Err(c)` (spec/20_memory.md R63). -/
inductive Answer (α : Type) where
  | ok (a : α)
  | err (c : IoCode)
deriving DecidableEq, Repr

/-- One entry of the I/O event history (R40, assumption 20): a request of the block and the answer it received. `k` is the index of the
single bit set in the request's mask. -/
inductive Event where
  | plat (answer : Bool)
  | topo (answer : Answer Word)
  | read (k : Nat) (addr : MsrAddr) (answer : Answer Word)
  | write (k : Nat) (addr : MsrAddr) (value : Word) (answer : Answer Unit)
deriving DecidableEq, Repr

/-- The two readings of the collaborator (spec/20_memory.md R68). -/
inductive Reading where
  /-- Every answer is a draw. -/
  | free
  /-- READ values, WRITE effects, the count of an `Ok` TOPO and the PLAT answer follow the environment (R64, R65, R67, R68;
  against I7 for the last two, assumption 22); `Ok` or `Err(c)` stays a draw. -/
  | reference
deriving DecidableEq, Repr

/-- The free choices behind one answer of the collaborator (R68): each request takes those it needs.
MODEL'S OWN (assumption 19). -/
structure Draw where
  /-- The answer to PLAT under the free collaborator. -/
  supported : Bool
  /-- `none`: the answer is `Ok`; `some c`: it is `Err(c)` (TOPO, READ, WRITE). -/
  error : Option IoCode
  /-- The value of an `Ok` answer to TOPO or READ under the free collaborator. -/
  value : Word
  /-- Whether a WRITE that answered `Err` was performed all the same (R64). -/
  performed : Bool
deriving DecidableEq, Repr

/-- The MSR space of the reference environment: a list of (cell number, 64-bit value) pairs, one cell per logical processor
and MSR address (R39, spec/20_memory.md R61, R62). Whole 64-bit words, because R69 forbids splitting them (assumption 7). -/
abbrev Memory := List (Nat × Word)

/-- The environment (R39), owned outside the block. -/
structure Env where
  reading : Reading
  /-- The platform guard's boolean answer under the reference environment, fixed for a run (assumption 22). -/
  supported : Bool
  /-- `N_hw` (R67), fixed for a run (assumption 22). -/
  nHw : Word
  /-- `msr[k][a]`. -/
  msr : Memory
deriving DecidableEq, Repr

/-- One move from outside the block (R18, R39, spec/70_reset_and_hazards.md R310, R315, R324).
MODEL'S OWN as a list in State (assumptions 1, 9). -/
inductive HostMove where
  /-- The host presents a command (R90). -/
  | command (c : Command)
  /-- The host resets the block (R310). -/
  | reset
  /-- The host makes no move in this step; it reads the visible registers (R30, R283). -/
  | poll
  /-- Some other agent writes an MSR while the block is not busy (spec/20_memory.md R78, R324). -/
  | outsideWrite (k : Nat) (addr : MsrAddr) (value : Word)
deriving DecidableEq, Repr

/-- The state of the model: the four classes of R20, and the inputs of the two outside agents. -/
structure State where
  /-- R21. -/
  slot : Slot
  /-- R23: 0 UNCHECKED, 1 SUPPORTED, 2 UNSUPPORTED. -/
  guard : BitVec 2
  /-- R24. -/
  busy : Bool
  /-- R25, R26. -/
  seq : Seq
  /-- `STATUS` (R27). -/
  status : BitVec 8
  /-- `ERR_*` (R28). -/
  err : ErrInfo
  /-- `RES0` .. `RES5` (R29). -/
  res : Results
  /-- The I/O event history, in issue order (R40). -/
  history : List Event
  /-- The configuration (R9, R10, R20), fixed for a run. -/
  cfg : Config
  /-- The environment (R39). -/
  env : Env
  /-- MODEL'S OWN: the moves from outside still to come, the next one first. -/
  host : List HostMove
  /-- MODEL'S OWN: the collaborator's draws still to come, one per request, the next one first. -/
  draws : List Draw
deriving DecidableEq, Repr

/-- Why a step stops with a fault. The block itself has no traps (spec/60_exceptions.md R280): every error is a status, and
the machine goes on. -/
inductive Fault where
  /-- Raised by `step` in a state with `busy = 1` and `seq.phase = IDLE`, which R26 excludes: no request is outstanding, so no
  rule gives a step. No run reaches such a state. SAFE: it only removes steps from states no run has (assumption 10). -/
  | busyWithoutRequest
deriving DecidableEq, Repr

/-- Why a step gives an instruction no meaning. -/
inductive Refusal where
  /-- Raised by `exec` for an instruction without a meaning. SAFE. No instruction of this model is refused. -/
  | notModelled (mnemonic : String)
  /-- Raised by `step` under a configuration that is not well formed: "a model refuses any other configuration" (R10).
  SAFE. -/
  | configIllFormed
deriving DecidableEq, Repr

/-- All `ERR_*` registers at 0 (R35, R42). -/
def ErrInfo.zero : ErrInfo := ⟨0#2, 0#2, 0#64, 0#64, 0#64, 0#32, 0#2, 0#32⟩

/-- All result registers at 0 (R42). -/
def Results.zero : Results := ⟨0#64, 0#64, 0#64, 0#64, 0#64, 0#64⟩

/-- The machine right after reset: every block register at its value of R42, the default configuration of R9, and, since
the spec gives the environment and the inputs no value (R42, R311), the DESIGN CHOICE of assumptions 1 and 5. -/
def State.reset : State where
  slot := ⟨false, 0#3, 0#64⟩
  guard := 0#2
  busy := false
  seq := ⟨.idle, 0#64, 0#64, 0#32, 0#64, false, 0#64⟩
  status := 0#8
  err := ErrInfo.zero
  res := Results.zero
  history := []
  cfg := Config.standard
  env := ⟨.reference, false, 0#64, []⟩
  host := []
  draws := []

end Sys2Proof.Machine
end

