-- ==== Sys2Proof/Machine/Flags.lean ====
section
/-! DEFINITION. The status-like bits of the block (spec/10_state.md R32). It has no condition codes: what stands for them are
the status code of a completed command (spec/60_exceptions.md R270), the codes in the two-bit registers, and the enabled
bit 63 of a register value (R33). -/

namespace Sys2Proof.Machine

/-- The completion statuses of R270. -/
inductive Status where
  | ok
  | platformUnsupported
  | registerNotEnabled
  | indexOutOfRange
  | fieldOutOfRange
  | threadCountUnknown
  | tooManyThreads
  | registerIoFailure
  | platformUnchecked
  | noRegister
  | divideByZero
  | operandOutOfDomain
  | illegalCommand
deriving DecidableEq, Repr

/-- The status codes of R270. -/
def statusCode (st : Status) : BitVec 8 :=
  match st with
  | .ok => 0x00#8
  | .platformUnsupported => 0x01#8
  | .registerNotEnabled => 0x02#8
  | .indexOutOfRange => 0x03#8
  | .fieldOutOfRange => 0x04#8
  | .threadCountUnknown => 0x05#8
  | .tooManyThreads => 0x06#8
  | .registerIoFailure => 0x07#8
  | .platformUnchecked => 0x10#8
  | .noRegister => 0x11#8
  | .divideByZero => 0x12#8
  | .operandOutOfDomain => 0x13#8
  | .illegalCommand => 0x14#8

/-- `guard` UNCHECKED (R23). -/
def guardUnchecked : BitVec 2 := 0#2

/-- `guard` SUPPORTED (R23). -/
def guardSupported : BitVec 2 := 1#2

/-- `guard` UNSUPPORTED (R23). -/
def guardUnsupported : BitVec 2 := 2#2

/-- `ERR_BOUND` BELOW_MIN (R28). -/
def boundBelowMin : BitVec 2 := 1#2

/-- `ERR_BOUND` ABOVE_MAX (R28). -/
def boundAboveMax : BitVec 2 := 2#2

/-- `ERR_IOOP` READ (R28). -/
def ioopRead : BitVec 2 := 1#2

/-- `ERR_IOOP` WRITE (R28). -/
def ioopWrite : BitVec 2 := 2#2

/-- `ERR_IOOP` TOPOLOGY (R28). -/
def ioopTopology : BitVec 2 := 3#2

/-- The enabled bit of a register value (R33). -/
def enabledBit (raw : Word) : Bool := raw.getLsbD 63

end Sys2Proof.Machine
end

