-- ==== Sys2Proof/Machine/Operands.lean ====
section
/-! DEFINITION. Operands and register fields: extraction (spec/40_codec.md R125), the read-modify-write primitive (R130), the
bounds (spec/00_scope.md R10), the operand checks (spec/41_derived.md R171, spec/42_selector.md R204), the derived values
(R170), the index-to-address map (R200) and the affinity mask (spec/20_memory.md R66). -/

namespace Sys2Proof.Machine

/-- The three fields of the P-state register (R33). -/
inductive Field where
  | fid
  | did
  | vid
deriving DecidableEq, Repr

/-- The `ERR_FIELD` code of a field (R28). -/
def fieldCode (f : Field) : BitVec 2 :=
  match f with
  | .fid => 1#2
  | .did => 2#2
  | .vid => 3#2

/-- The position of a field's lowest bit (R33). -/
def fieldLo (f : Field) : Nat :=
  match f with
  | .fid => 0
  | .did => 8
  | .vid => 14

/-- The width of a field (R33). -/
def fieldWidth (f : Field) : Nat :=
  match f with
  | .fid => 8
  | .did => 6
  | .vid => 8

/-- The lower setter bound of a field (R9, R10). -/
def fieldMin (c : Config) (f : Field) : Nat :=
  match f with
  | .fid => c.fidMin
  | .did => c.didMin
  | .vid => c.vidMin

/-- The upper setter bound of a field (R9, R10). -/
def fieldMax (c : Config) (f : Field) : Nat :=
  match f with
  | .fid => c.fidMax
  | .did => c.didMax
  | .vid => c.vidMax

/-- A field of a register value, zero-extended to 64 bits (R125, R122 to R124). -/
def getField (f : Field) (raw : Word) : Word :=
  match f with
  | .fid => (raw.extractLsb' 0 8).setWidth 64
  | .did => (raw.extractLsb' 8 6).setWidth 64
  | .vid => (raw.extractLsb' 14 8).setWidth 64

/-- The read-modify-write primitive of R130. -/
def setBits (raw : Word) (lo width : Nat) (v : Word) : Word :=
  let m : Word := BitVec.ofNat 64 ((2 ^ width - 1) <<< lo)
  (raw &&& ~~~m) ||| (v <<< lo)

/-- An index is valid exactly when it is at most 7, compared at full width (R97, R204). -/
def indexInRange (index : Word) : Bool := decide (index.toNat ≤ 7)

/-- The domain of a static derive operand: at most 0xFF, compared at full width (R97, R171). -/
def operandInDomain (v : Word) : Bool := decide (v.toNat ≤ 0xFF)

/-- The numerator of a ratio (scale 2) or of a frequency in MHz (scale 200), an exact integer (R170). -/
def scaledFid (scale : Nat) (fid : Word) : Word := BitVec.ofNat 64 (scale * fid.toNat)

/-- The core voltage of a VID in microvolts, as a 64-bit two's complement number (R170). -/
def microvolts (vid : Word) : Word := BitVec.ofInt 64 (1550000 - 6250 * (vid.toNat : Int))

/-- `PSTATE_ADDR(i)` (R200). -/
def pstateAddr (i : Nat) : MsrAddr := pstateBase + BitVec.ofNat 32 i

/-- The affinity mask of logical processor `k`: the value `1 << k` (R66, assumption 12). -/
def coreMask (k : Word) : Nat := 2 ^ k.toNat

/-- The logical processor a one-hot mask selects: the index of its single set bit (R40, R61). -/
def maskCore (mask : Nat) : Nat := mask.log2

/-- A register value with the TSC-lock bit set and every other bit as it was (R36, R238). -/
def withTscLock (v : Word) : Word := v ||| BitVec.ofNat 64 (1 <<< tscLockBit)

end Sys2Proof.Machine
end

