-- ==== Sys2Proof/Machine/Ops.lean ====
section
/-! DEFINITION. The named operations over the MSR space and the registers: cells (spec/20_memory.md R61 to R65), register
writes, completing a command and ending it with an error (spec/00_scope.md R15), and reset (spec/70_reset_and_hazards.md
R310). The block has no trap, no saved context and no return from an error (spec/60_exceptions.md R280, R282): raising is the
whole of taking an exception. -/

namespace Sys2Proof.Machine

/-! ### The MSR space -/

/-- What a cell that is not listed reads as. DESIGN CHOICE, unsafe (assumption 6). -/
def unlistedCell : Word := 0#64

/-- The number of the cell of logical processor `k` at MSR address `a`: the banks lie one after another (R61). -/
def cellOf (k : Nat) (a : MsrAddr) : Nat := k * 2 ^ 32 + a.toNat

/-- One cell of the space. -/
def readCell (m : Memory) (c : Nat) : Word :=
  match m with
  | [] => unlistedCell
  | (b, v) :: rest => if c = b then v else readCell rest c

/-- Writing one cell, in the canonical form: addresses rise and no listed cell holds what an unlisted one reads as. -/
def writeCell (m : Memory) (c : Nat) (v : Word) : Memory :=
  match m with
  | [] => if v = unlistedCell then [] else [(c, v)]
  | (b, w) :: rest =>
    if c < b then (if v = unlistedCell then (b, w) :: rest else (c, v) :: (b, w) :: rest)
    else if c = b then (if v = unlistedCell then rest else (c, v) :: rest)
    else (b, w) :: writeCell rest c v

/-- The canonical form, below which no cell number may lie: numbers rise strictly from `lo` and every listed value differs
from `unlistedCell`. -/
def wfFrom (lo : Nat) (m : Memory) : Bool :=
  match m with
  | [] => true
  | (b, v) :: rest => decide (lo ≤ b) && decide (v ≠ unlistedCell) && wfFrom (b + 1) rest

/-- The memory is in its canonical form. -/
def Memory.wf (m : Memory) : Bool := wfFrom 0 m

/-- `msr[k][a]` (R39, R61). -/
def readMsr (m : Memory) (k : Nat) (a : MsrAddr) : Word := readCell m (cellOf k a)

/-- `msr[k][a] <- v` (R64). -/
def writeMsr (m : Memory) (k : Nat) (a : MsrAddr) (v : Word) : Memory := writeCell m (cellOf k a) v

/-! ### Registers -/

/-- Acceptance of a command: every `ERR_*` register to 0 (R35). -/
def State.clearErr (s : State) : State := { s with err := ErrInfo.zero }

/-- `slot <- (1, index, raw)` (R121). -/
def State.fillSlot (s : State) (index : BitVec 3) (raw : Word) : State := { s with slot := ⟨true, index, raw⟩ }

/-- `slot.valid <- 0`; the index and the raw value stay (R121). -/
def State.emptySlot (s : State) : State := { s with slot := { s.slot with valid := false } }

/-- `slot.raw <- raw`. -/
def State.setRaw (s : State) (raw : Word) : State := { s with slot := { s.slot with raw := raw } }

/-- `guard <- g` (R23). -/
def State.setGuard (s : State) (g : BitVec 2) : State := { s with guard := g }

/-- `RES0 <- v`. -/
def State.setRes0 (s : State) (v : Word) : State := { s with res := { s.res with res0 := v } }

/-- `RES1 <- v`. -/
def State.setRes1 (s : State) (v : Word) : State := { s with res := { s.res with res1 := v } }

/-- All six result registers (R180). -/
def State.setResults (s : State) (r : Results) : State := { s with res := r }

/-- `busy <- 1` and a waiting phase, with the other sequencer registers as given (R220, R226). -/
def State.await (s : State) (q : Seq) : State := { s with busy := true, seq := q }

/-- The sequencer registers inside a command that goes on (R235 to R241). -/
def State.setSeq (s : State) (q : Seq) : State := { s with seq := q }

/-- Appends to the I/O event history (R40, R230). -/
def State.record (s : State) (e : Event) : State := { s with history := s.history ++ [e] }

/-- `complete OK` (R15, R230): the command ends with `STATUS = 0x00`, `busy = 0` and the phase IDLE (assumption 11). -/
def State.complete (s : State) : State :=
  { s with status := statusCode .ok, busy := false, seq := { s.seq with phase := .idle } }

/-- `raise <Status>(info)` (R15, R230, R280): the command ends with that status, the `ERR_*` fields as `info` gives them and
the others 0, `busy = 0` and the phase IDLE. -/
def State.raise (s : State) (st : Status) (info : ErrInfo) : State :=
  { s with status := statusCode st, err := info, busy := false, seq := { s.seq with phase := .idle } }

/-! ### Accepting a word that is no command -/

/-- An illegal command word: accepted, and completed with `IllegalCommand` and the word in `ERR_VALUE` (R98). -/
def execIllegal (w : CmdWord) (s : State) : State :=
  s.clearErr.raise .illegalCommand { ErrInfo.zero with value := w.setWidth 64 }

/-! ### Moves from outside -/

/-- Another agent's write to a cell of the environment (R78, R324). -/
def State.outsideWrite (s : State) (k : Nat) (a : MsrAddr) (v : Word) : State :=
  { s with env := { s.env with msr := writeMsr s.env.msr k a v } }

/-- Reset of the block alone (R310, R311): every block register at its reset value and an empty history; configuration,
environment and inputs stay. -/
def State.resetBlock (s : State) : State :=
  { State.reset with cfg := s.cfg, env := s.env, host := s.host, draws := s.draws }

end Sys2Proof.Machine
end

