-- ==== Sys2Proof/Machine/Apply.lean ====
section
/-! DEFINITION. APPLY on acceptance: its checks and its launch (spec/43_apply.md R225, R226). Its waiting steps are in
Sequencer.lean. -/

namespace Sys2Proof.Machine

/-- The sequencer registers at launch (R226); the target address comes from the selector (spec/42_selector.md R202). -/
def launchSeq (slot : Slot) : Seq where
  phase := .topoWait
  k := 0#64
  n := 0#64
  addr := pstateAddr slot.index.toNat
  value := slot.raw
  tsc := decide (slot.index = 0#3)
  hw := 0#64

/-- APPLY (R225, R226): the guard, the slot, then the TOPO request. -/
def execApply (s : State) : Host.Outcome State Fault Refusal :=
  let s := s.clearErr
  if s.guard = guardUnchecked then .next (s.raise .platformUnchecked ErrInfo.zero)
  else if s.guard = guardUnsupported then .next (s.raise .platformUnsupported ErrInfo.zero)
  else if s.slot.valid = false then .next (s.raise .noRegister ErrInfo.zero)
  else .next (s.await (launchSeq s.slot))

end Sys2Proof.Machine
end

