-- ==== Sys2Proof/Machine/Codec.lean ====
section
/-! DEFINITION. The register codec (spec/40_codec.md): construction, field extraction, field update, re-encode. Every command
completes in one step and reaches nothing but the slot, `RES0`, `STATUS` and `ERR_*` (R120). -/

namespace Sys2Proof.Machine

/-- A command that delivers a function of the slot's raw value in `RES0`, or raises `NoRegister` (R122 to R124, R134). -/
def deliverFromSlot (f : Word → Word) (s : State) : State :=
  let s := s.clearErr
  if s.slot.valid then (s.setRes0 (f s.slot.raw)).complete
  else s.raise .noRegister ErrInfo.zero

/-- A setter (R131 to R133) with the check order of R139: the slot, the lower bound, the upper bound; then the
read-modify-write of R130. -/
def updateField (f : Field) (v : Word) (s : State) : State :=
  let s := s.clearErr
  if s.slot.valid = false then s.raise .noRegister ErrInfo.zero
  else if v.toNat < fieldMin s.cfg f then
    s.raise .fieldOutOfRange
      { ErrInfo.zero with field := fieldCode f, bound := boundBelowMin, limit := BitVec.ofNat 64 (fieldMin s.cfg f), value := v }
  else if fieldMax s.cfg f < v.toNat then
    s.raise .fieldOutOfRange
      { ErrInfo.zero with field := fieldCode f, bound := boundAboveMax, limit := BitVec.ofNat 64 (fieldMax s.cfg f), value := v }
  else (s.setRaw (setBits s.slot.raw (fieldLo f) (fieldWidth f) v)).complete

/-- CONSTRUCT (R121): the index check first, then the enabled bit; a failure empties the slot. -/
def execConstruct (index raw : Word) (s : State) : Host.Outcome State Fault Refusal :=
  let s := s.clearErr
  if indexInRange index = false then
    .next (s.emptySlot.raise .indexOutOfRange { ErrInfo.zero with value := index, limit := 7#64 })
  else if enabledBit raw = false then
    .next (s.emptySlot.raise .registerNotEnabled { ErrInfo.zero with value := raw })
  else .next (s.fillSlot (index.setWidth 3) raw).complete

/-- GETFID (R122). -/
def execGetfid (s : State) : Host.Outcome State Fault Refusal :=
  .next (deliverFromSlot (getField .fid) s)

/-- GETDID (R123). -/
def execGetdid (s : State) : Host.Outcome State Fault Refusal :=
  .next (deliverFromSlot (getField .did) s)

/-- GETVID (R124). -/
def execGetvid (s : State) : Host.Outcome State Fault Refusal :=
  .next (deliverFromSlot (getField .vid) s)

/-- SETFID (R131). -/
def execSetfid (value : Word) (s : State) : Host.Outcome State Fault Refusal :=
  .next (updateField .fid value s)

/-- SETDID (R132). -/
def execSetdid (value : Word) (s : State) : Host.Outcome State Fault Refusal :=
  .next (updateField .did value s)

/-- SETVID (R133). -/
def execSetvid (value : Word) (s : State) : Host.Outcome State Fault Refusal :=
  .next (updateField .vid value s)

/-- ENCODE (R134). -/
def execEncode (s : State) : Host.Outcome State Fault Refusal :=
  .next (deliverFromSlot (fun raw => raw) s)

end Sys2Proof.Machine
end

