-- ==== Sys2Proof/Machine/Derived.lean ====
section
/-! DEFINITION. The derived quantities (spec/41_derived.md): ratio, frequency and core voltage as exact integers (R170), of
operands or of the slot's fields, and the snapshot. No command here writes the slot (R171). -/

namespace Sys2Proof.Machine

/-- The numerator `scale * fid` in `RES0` and the denominator `did` in `RES1`, or `DivideByZero` (R171 check 3). -/
def deliverQuotient (scale : Nat) (fid did : Word) (s : State) : State :=
  if did = 0#64 then s.raise .divideByZero { ErrInfo.zero with field := fieldCode .did }
  else ((s.setRes0 (scaledFid scale fid)).setRes1 did).complete

/-- An operand above 0xFF (R171 check 2). -/
def raiseDomain (f : Field) (v : Word) (s : State) : State :=
  s.raise .operandOutOfDomain { ErrInfo.zero with field := fieldCode f, value := v, limit := 0xFF#64 }

/-- The static ratio and frequency commands (R172, R173): the domain of `fid`, of `did`, then division by zero. -/
def staticQuotient (scale : Nat) (fid did : Word) (s : State) : State :=
  let s := s.clearErr
  if operandInDomain fid = false then raiseDomain .fid fid s
  else if operandInDomain did = false then raiseDomain .did did s
  else deliverQuotient scale fid did s

/-- The instance ratio and frequency commands (R175, R176): of the slot's own FID and DID. -/
def slotQuotient (scale : Nat) (s : State) : State :=
  let s := s.clearErr
  if s.slot.valid then deliverQuotient scale (getField .fid s.slot.raw) (getField .did s.slot.raw) s
  else s.raise .noRegister ErrInfo.zero

/-- RATIO (R172). -/
def execRatio (fid did : Word) (s : State) : Host.Outcome State Fault Refusal :=
  .next (staticQuotient 2 fid did s)

/-- FREQ (R173). -/
def execFreq (fid did : Word) (s : State) : Host.Outcome State Fault Refusal :=
  .next (staticQuotient 200 fid did s)

/-- VCORE (R174). -/
def execVcore (vid : Word) (s : State) : Host.Outcome State Fault Refusal :=
  let s := s.clearErr
  if operandInDomain vid = false then .next (raiseDomain .vid vid s)
  else .next (s.setRes0 (microvolts vid)).complete

/-- RATIOR (R175). -/
def execRatior (s : State) : Host.Outcome State Fault Refusal :=
  .next (slotQuotient 2 s)

/-- FREQR (R176). -/
def execFreqr (s : State) : Host.Outcome State Fault Refusal :=
  .next (slotQuotient 200 s)

/-- VCORER (R177). -/
def execVcorer (s : State) : Host.Outcome State Fault Refusal :=
  .next (deliverFromSlot (fun raw => microvolts (getField .vid raw)) s)

/-- The six values of a snapshot (R180). -/
def snapshot (raw : Word) : Results where
  res0 := getField .fid raw
  res1 := getField .did raw
  res2 := getField .vid raw
  res3 := scaledFid 2 (getField .fid raw)
  res4 := scaledFid 200 (getField .fid raw)
  res5 := microvolts (getField .vid raw)

/-- DESCRIBE (R180). -/
def execDescribe (s : State) : Host.Outcome State Fault Refusal :=
  let s := s.clearErr
  if s.slot.valid = false then .next (s.raise .noRegister ErrInfo.zero)
  else if getField .did s.slot.raw = 0#64 then
    .next (s.raise .divideByZero { ErrInfo.zero with field := fieldCode .did })
  else .next (s.setResults (snapshot s.slot.raw)).complete

end Sys2Proof.Machine
end

