-- ==== Sys2Proof/Machine/Guard.lean ====
section
/-! DEFINITION. The platform guard command (spec/43_apply.md R221). Its waiting step is in Sequencer.lean. -/

namespace Sys2Proof.Machine

/-- CHKPLAT on acceptance (R221): the latched answer, or a PLAT request. -/
def execChkplat (s : State) : Host.Outcome State Fault Refusal :=
  let s := s.clearErr
  if s.guard = guardSupported then .next s.complete
  else if s.guard = guardUnsupported then .next (s.raise .platformUnsupported ErrInfo.zero)
  else .next (s.await { s.seq with phase := .platWait })

end Sys2Proof.Machine
end

