-- ==== Sys2Proof/Machine/Selector.lean ====
section
/-! DEFINITION. The P-state selector command (spec/42_selector.md R201). -/

namespace Sys2Proof.Machine

/-- ADDRFOR (R201): it neither needs nor reads the slot and issues no request. -/
def execAddrfor (index : Word) (s : State) : Host.Outcome State Fault Refusal :=
  let s := s.clearErr
  if indexInRange index = false then
    .next (s.raise .indexOutOfRange { ErrInfo.zero with value := index, limit := 7#64 })
  else .next (s.setRes0 ((pstateAddr index.toNat).setWidth 64)).complete

end Sys2Proof.Machine
end

