-- ==== Sys2Proof/Machine/Dispatch.lean ====
section
/-! DEFINITION. One arm per command (spec/30_encoding.md R95). -/

namespace Sys2Proof.Machine

def exec (i : Instr) (s : State) : Host.Outcome State Fault Refusal :=
  match i with
  | .chkplat => Sys2Proof.Machine.execChkplat s
  | .construct index raw => Sys2Proof.Machine.execConstruct index raw s
  | .getfid => Sys2Proof.Machine.execGetfid s
  | .getdid => Sys2Proof.Machine.execGetdid s
  | .getvid => Sys2Proof.Machine.execGetvid s
  | .setfid value => Sys2Proof.Machine.execSetfid value s
  | .setdid value => Sys2Proof.Machine.execSetdid value s
  | .setvid value => Sys2Proof.Machine.execSetvid value s
  | .encode => Sys2Proof.Machine.execEncode s
  | .ratio fid did => Sys2Proof.Machine.execRatio fid did s
  | .freq fid did => Sys2Proof.Machine.execFreq fid did s
  | .vcore vid => Sys2Proof.Machine.execVcore vid s
  | .ratior => Sys2Proof.Machine.execRatior s
  | .freqr => Sys2Proof.Machine.execFreqr s
  | .vcorer => Sys2Proof.Machine.execVcorer s
  | .describe => Sys2Proof.Machine.execDescribe s
  | .addrfor index => Sys2Proof.Machine.execAddrfor index s
  | .apply => Sys2Proof.Machine.execApply s

end Sys2Proof.Machine
end

