-- ==== Sys2Proof/Machine/Collaborator.lean ====
section
/-! DEFINITION. The I/O port and the collaborator behind it (spec/20_memory.md R63 to R68): the outstanding request as a
function of the state (spec/43_apply.md R230), the answer under each of the two readings, and the effect on the
environment. -/

namespace Sys2Proof.Machine

/-- A request of the block (R63). `mask` is the affinity mask, a `MASK_WIDTH`-bit value (R66). -/
inductive Request where
  | plat
  | topo
  | read (addr : MsrAddr) (mask : Nat)
  | write (addr : MsrAddr) (mask : Nat) (value : Word)
deriving DecidableEq, Repr

/-- The outstanding request of each waiting phase (R230). -/
def outstanding (s : State) : Option Request :=
  match s.seq.phase with
  | .idle => none
  | .platWait => some .plat
  | .topoWait => some .topo
  | .tscRdWait => some (.read s.cfg.hwcrAddr (coreMask s.seq.k))
  | .tscWrWait => some (.write s.cfg.hwcrAddr (coreMask s.seq.k) s.seq.hw)
  | .bcWrWait => some (.write s.seq.addr (coreMask s.seq.k) s.seq.value)

/-- The answer to PLAT: a draw under the free collaborator, the environment's fixed boolean under the reference environment, as
R68 says. spec/93_implementation_defined.md I7 calls it a draw there too: that R68 is followed and not I7 is a DESIGN CHOICE,
unsafe (assumption 22). -/
def platAnswer (e : Env) (d : Draw) : Bool :=
  match e.reading with
  | .free => d.supported
  | .reference => e.supported

/-- The answer to a request that carries a value back: `Err(c)` as drawn, else `Ok` with the drawn value (free) or the
environment's (reference). -/
def valueAnswer (e : Env) (d : Draw) (held : Word) : Answer Word :=
  match d.error with
  | some c => .err c
  | none =>
    match e.reading with
    | .free => .ok d.value
    | .reference => .ok held

/-- The answer to TOPO: `Err(c)` as drawn in both readings, and an `Ok` carries the drawn count under the free collaborator and
`N_hw` under the reference environment, as R67 and R68 say. spec/93_implementation_defined.md I7 calls TOPO a draw there too:
that R67 is followed and not I7 is a DESIGN CHOICE, unsafe (assumption 22). -/
def topoAnswer (e : Env) (d : Draw) : Answer Word := valueAnswer e d e.nHw

/-- The answer to a READ: the mask selects the bank (R61, R65, R68). -/
def readAnswer (e : Env) (d : Draw) (addr : MsrAddr) (mask : Nat) : Answer Word :=
  valueAnswer e d (readMsr e.msr (maskCore mask) addr)

/-- The answer to a WRITE: `Ok` or `Err(c)` as drawn in both readings (R64, R68). -/
def writeAnswer (d : Draw) : Answer Unit :=
  match d.error with
  | some c => .err c
  | none => .ok ()

/-- The environment after a WRITE (R64): in the reference environment performed on `Ok`, and on `Err(c)` performed or not as
drawn; the free collaborator says nothing of the cells, and the model leaves them (assumption 4). -/
def envAfterWrite (e : Env) (d : Draw) (addr : MsrAddr) (mask : Nat) (v : Word) : Env :=
  match e.reading with
  | .free => e
  | .reference =>
    if d.error = none ∨ d.performed = true then { e with msr := writeMsr e.msr (maskCore mask) addr v } else e

/-- The environment after the draw has settled a request, whatever becomes of the answer. -/
def envAfterRequest (e : Env) (d : Draw) (r : Request) : Env :=
  match r with
  | .plat => e
  | .topo => e
  | .read _ _ => e
  | .write addr mask v => envAfterWrite e d addr mask v

/-- Reset abandons an outstanding request (R310): the draw that would have answered it still says whether the collaborator
performed it, and its answer is discarded and not recorded (assumption 8). -/
def abandonRequest (s : State) : State :=
  match outstanding s, s.draws with
  | some r, d :: rest => { s with env := envAfterRequest s.env d r, draws := rest }
  | _, _ => s

/-- The reset move (R310, R311). -/
def applyReset (s : State) : State := (abandonRequest s).resetBlock

end Sys2Proof.Machine
end

