-- ==== Sys2Proof/Machine/Sequencer.lean ====
section
/-! DEFINITION. The waiting steps of CHKPLAT and APPLY (spec/43_apply.md R220 to R241): each takes the collaborator's answer to
the outstanding request, records both (R230), and goes on as the rule of its phase says. -/

namespace Sys2Proof.Machine

/-- The step in PLAT_WAIT (R221). -/
def platStep (d : Draw) (s : State) : State :=
  let b := platAnswer s.env d
  let s := s.record (.plat b)
  if b then (s.setGuard guardSupported).complete
  else (s.setGuard guardUnsupported).raise .platformUnsupported ErrInfo.zero

/-- The phase the passes begin with: the TSC-lock pass when it is required, else the broadcast pass (R235, R246). -/
def firstPass (tsc : Bool) : Phase :=
  match tsc with
  | true => .tscRdWait
  | false => .bcWrWait

/-- The step in TOPO_WAIT (R232, R233, R235). -/
def topoStep (d : Draw) (s : State) : State :=
  let answer := topoAnswer s.env d
  let s := s.record (.topo answer)
  match answer with
  | .err c => s.raise .threadCountUnknown { ErrInfo.zero with ioop := ioopTopology, iocode := c }
  | .ok n =>
    if n = 0#64 then s.raise .threadCountUnknown ErrInfo.zero
    else if s.cfg.maskWidth < n.toNat then
      s.raise .tooManyThreads { ErrInfo.zero with value := n, limit := BitVec.ofNat 64 s.cfg.maskWidth }
    else s.setSeq { s.seq with n := n, k := 0#64, phase := firstPass s.seq.tsc }

/-- A READ or WRITE that answered `Err(c)` (R237, R239, R241, R285): the code is passed through, and nothing is retried. -/
def raiseIo (addr : MsrAddr) (ioop : BitVec 2) (value : Word) (c : IoCode) (s : State) : State :=
  s.raise .registerIoFailure
    { ErrInfo.zero with core := s.seq.k, addr := addr, ioop := ioop, value := value, iocode := c }

/-- The step in TSC_RD_WAIT (R236 to R238). -/
def tscReadStep (d : Draw) (s : State) : State :=
  let addr := s.cfg.hwcrAddr
  let answer := readAnswer s.env d addr (coreMask s.seq.k)
  let s := s.record (.read (maskCore (coreMask s.seq.k)) addr answer)
  match answer with
  | .err c => raiseIo addr ioopRead 0#64 c s
  | .ok v => s.setSeq { s.seq with hw := withTscLock v, phase := .tscWrWait }

/-- A WRITE at the port: its effect on the environment, and its record (R64, R230). -/
def portWrite (d : Draw) (addr : MsrAddr) (value : Word) (s : State) : State :=
  let mask := coreMask s.seq.k
  ({ s with env := envAfterWrite s.env d addr mask value }).record (.write (maskCore mask) addr value (writeAnswer d))

/-- Whether a processor follows `seq.k` in the pass: `seq.k + 1 < seq.N`, exact (R239, R241). -/
def moreCores (s : State) : Bool := decide (s.seq.k.toNat + 1 < s.seq.n.toNat)

/-- The step in TSC_WR_WAIT (R239). -/
def tscWriteStep (d : Draw) (s : State) : State :=
  let s' := portWrite d s.cfg.hwcrAddr s.seq.hw s
  match writeAnswer d with
  | .err c => raiseIo s.cfg.hwcrAddr ioopWrite s.seq.hw c s'
  | .ok _ =>
    if moreCores s then s'.setSeq { s.seq with k := s.seq.k + 1#64, phase := .tscRdWait }
    else s'.setSeq { s.seq with k := 0#64, phase := .bcWrWait }

/-- The step in BC_WR_WAIT (R240, R241). -/
def broadcastStep (d : Draw) (s : State) : State :=
  let s' := portWrite d s.seq.addr s.seq.value s
  match writeAnswer d with
  | .err c => raiseIo s.seq.addr ioopWrite s.seq.value c s'
  | .ok _ =>
    if moreCores s then s'.setSeq { s.seq with k := s.seq.k + 1#64 }
    else s'.complete

/-- The block's step on the collaborator's answer, by phase (R230). -/
def answerStep (d : Draw) (s : State) : State :=
  match s.seq.phase with
  | .idle => s
  | .platWait => platStep d s
  | .topoWait => topoStep d s
  | .tscRdWait => tscReadStep d s
  | .tscWrWait => tscWriteStep d s
  | .bcWrWait => broadcastStep d s

/-- A step while `busy = 1` (R91, R230, R323): with no answer the block has no step and stays as it is, for ever if none
comes; with an answer it advances. -/
def waitStep (s : State) : Host.Outcome State Fault Refusal :=
  if s.seq.phase = .idle then .fault .busyWithoutRequest
  else
    match s.draws with
    | [] => .next s
    | d :: rest => .next (answerStep d { s with draws := rest })

end Sys2Proof.Machine
end

