-- ==== Sys2Proof/Machine/Interface.lean ====
section
/-! DEFINITION. The command interface (spec/30_encoding.md R90 to R92) and the moves from outside: what one step of the model
takes up next. -/

namespace Sys2Proof.Machine

/-- Acceptance of a command when `busy = 0` (R90, R98): decode it and execute it. -/
def acceptCommand (c : Command) (s : State) : Host.Outcome State Fault Refusal :=
  match decode c with
  | .legal i => exec i s
  | .illegal _ => .next (execIllegal c.cmd s)

/-- A step while `busy = 0`: the next move from outside, or none (R90, R295, R312). -/
def idleStep (s : State) : Host.Outcome State Fault Refusal :=
  match s.host with
  | .command c :: rest => acceptCommand c { s with host := rest }
  | .outsideWrite k a v :: rest => .next (({ s with host := rest }).outsideWrite k a v)
  | .poll :: rest => .next { s with host := rest }
  | .reset :: rest => .next (applyReset { s with host := rest })
  | [] => .next s

/-- A step while `busy = 1` (R91): a reset is taken at once (R310), a poll passes while the block waits or advances, and a
command or an outside write is held until `busy = 0` (R91, R79, assumption 9). -/
def busyStep (s : State) : Host.Outcome State Fault Refusal :=
  match s.host with
  | .reset :: rest => .next (applyReset { s with host := rest })
  | .poll :: rest => waitStep { s with host := rest }
  | .command _ :: _ => waitStep s
  | .outsideWrite _ _ _ :: _ => waitStep s
  | [] => waitStep s

/-- One step under a well-formed configuration. -/
def stepBody (s : State) : Host.Outcome State Fault Refusal :=
  if s.busy then busyStep s else idleStep s

/-- The state with the command `c` presented as the host's next move, and the block idle so that it is accepted
(assumption 15). -/
def presentCommand (c : Command) (s : State) : State :=
  { s with host := .command c :: s.host, busy := false, seq := { s.seq with phase := .idle } }

end Sys2Proof.Machine
end

