-- ==== Sys2Proof/Machine/Step.lean ====
section
/-! DEFINITION. One step of the machine, and the placing of an instruction where the next step takes it up. -/

namespace Sys2Proof.Machine

/-- One step. A configuration that is not well formed is refused (spec/00_scope.md R10). -/
def step (s : State) : Host.Outcome State Fault Refusal :=
  if s.cfg.wf then stepBody s else .refused .configIllFormed

/-- `s` with the instruction whose bits are `w` presented on the command interface as the next command (assumption 15). -/
def State.withFetchWord (s : State) (nbits w : Nat) : State := presentCommand (commandOfBits nbits w) s

end Sys2Proof.Machine
end

