-- ==== Sys2Proof/Safety.lean ====
section
/-! DEFINITION. What counts as a legal state and a legal run, in the terms the statements use: the invariant of the block, what
the host can read, runs of commands, and APPLY as the one sequential program of spec/43_apply.md R248. -/

namespace Sys2Proof.Machine

/-- The phases of an APPLY whose TOPO request has been sent (spec/10_state.md R26). -/
def applyPhase (p : Phase) : Bool :=
  match p with
  | .idle => false
  | .platWait => false
  | .topoWait => true
  | .tscRdWait => true
  | .tscWrWait => true
  | .bcWrWait => true

/-- The phases of the two per-processor passes. -/
def passPhase (p : Phase) : Bool :=
  match p with
  | .idle => false
  | .platWait => false
  | .topoWait => false
  | .tscRdWait => true
  | .tscWrWait => true
  | .bcWrWait => true

/-- The phases of the TSC-lock pass. -/
def lockPhase (p : Phase) : Bool :=
  match p with
  | .idle => false
  | .platWait => false
  | .topoWait => false
  | .tscRdWait => true
  | .tscWrWait => true
  | .bcWrWait => false

/-- The invariant of the block: every step keeps it, and reset establishes it. -/
structure State.Inv (s : State) : Prop where
  /-- spec/00_scope.md R10. -/
  cfg_wf : s.cfg.wf = true
  /-- R22: a held register has its enabled bit set. -/
  slot_enabled : s.slot.valid = true → s.slot.raw.getLsbD 63 = true
  /-- R23: the value 3 is never written. -/
  guard_legal : s.guard ≠ 3#2
  /-- R26: `busy = 1` exactly when `seq.phase != IDLE`. -/
  busy_phase : s.busy = true ↔ s.seq.phase ≠ .idle
  /-- R27, spec/60_exceptions.md R270: no other code is ever written. -/
  status_legal : ∃ st : Status, s.status = statusCode st
  /-- R28: the value 3 is never written. -/
  err_bound : s.err.bound ≠ 3#2
  /-- R35: a command in progress has cleared the error information. -/
  err_clear : s.busy = true → s.err = ErrInfo.zero
  /-- R35, R271: after `OK` every error field is 0. -/
  ok_clear : s.busy = false → s.status = 0#8 → s.err = ErrInfo.zero
  /-- spec/43_apply.md R221: a PLAT request is sent only before the guard is latched. -/
  plat_unchecked : s.seq.phase = .platWait → s.guard = guardUnchecked
  /-- R225: APPLY runs only on a supported platform with a slot. -/
  apply_guarded : applyPhase s.seq.phase = true → s.guard = guardSupported ∧ s.slot.valid = true
  /-- R226, R247: the target and the value are the slot's throughout. -/
  apply_target : applyPhase s.seq.phase = true →
    s.seq.addr = pstateAddr s.slot.index.toNat ∧ s.seq.value = s.slot.raw ∧ s.seq.tsc = decide (s.slot.index = 0#3)
  /-- R31, spec/20_memory.md R66: `seq.k < seq.N <= MASK_WIDTH`. -/
  pass_range : passPhase s.seq.phase = true → s.seq.k.toNat < s.seq.n.toNat ∧ s.seq.n.toNat ≤ s.cfg.maskWidth
  /-- R246: the TSC-lock pass runs only when the index is 0. -/
  lock_index : lockPhase s.seq.phase = true → s.slot.index = 0#3
  /-- R238: the value written back to HWCR has bit 21 set. -/
  lock_bit : s.seq.phase = .tscWrWait → s.seq.hw.getLsbD 21 = true
  /-- The MSR space is in its canonical form. -/
  msr_wf : Memory.wf s.env.msr = true

/-- What the host can read at any time (R30, R43). -/
structure HostView where
  busy : Bool
  status : BitVec 8
  err : ErrInfo
  res : Results
deriving DecidableEq, Repr

/-- The registers of the host's view. -/
def State.hostView (s : State) : HostView := ⟨s.busy, s.status, s.err, s.res⟩

/-- `n` steps from `s` end in the next state `t`. -/
def runsTo (n : Nat) (s t : State) : Prop := Host.Core.run Sys2Proof.core n s = .next t

/-- A list of moves that holds commands only. -/
def commandsOnly (moves : List HostMove) : Bool :=
  match moves with
  | [] => true
  | .command _ :: rest => commandsOnly rest
  | .reset :: _ => false
  | .poll :: _ => false
  | .outsideWrite _ _ _ :: _ => false

/-- A list of moves without a command that decodes to APPLY: a dry run (spec/70_reset_and_hazards.md R316). -/
def dryRun (moves : List HostMove) : Bool :=
  match moves with
  | [] => true
  | .command c :: rest => decide (decode c ≠ .legal .apply) && dryRun rest
  | .reset :: rest => dryRun rest
  | .poll :: rest => dryRun rest
  | .outsideWrite _ _ _ :: rest => dryRun rest

/-- A list of moves with no command that decodes to a CONSTRUCT, and no reset. -/
def keepsRegister (moves : List HostMove) : Bool :=
  match moves with
  | [] => true
  | .command c :: rest =>
    (match decode c with
      | .legal (.construct _ _) => false
      | _ => true) && keepsRegister rest
  | .reset :: _ => false
  | .poll :: rest => keepsRegister rest
  | .outsideWrite _ _ _ :: rest => keepsRegister rest

/-- The host's next command is accepted at `s` and completes, `waits` block steps later, in `t`. -/
def completesIn (waits : Nat) (s t : State) : Prop :=
  runsTo (waits + 1) s t ∧ t.busy = false ∧ ∀ m < waits, ∃ u, runsTo (m + 1) s u ∧ u.busy = true

/-- The state in which the host presents `c` to an idle block, with commands only behind it. -/
def presents (s : State) (c : Command) (rest : List HostMove) : Prop :=
  s.cfg.wf = true ∧ s.busy = false ∧ s.host = .command c :: rest ∧ commandsOnly rest = true

/-- `s` after a command that ended with status code `code` and error information `info` (spec/00_scope.md R15): `STATUS` and
`ERR_*` as given, `busy` 0, the phase IDLE, and everything else as in `s`. -/
def endedWith (s : State) (code : BitVec 8) (info : ErrInfo) : State :=
  { s with status := code, err := info, busy := false, seq := { s.seq with phase := .idle } }

/-- The block waits in phase `p`, the draw `d` settles its request, and the host holds commands only. -/
def waiting (s : State) (p : Phase) (d : Draw) (rest : List Draw) : Prop :=
  s.cfg.wf = true ∧ s.busy = true ∧ s.seq.phase = p ∧ commandsOnly s.host = true ∧ s.draws = d :: rest

/-- What the collaborator's `Ok` answer to a TOPO or READ carries: the drawn value under the free collaborator, `held` under
the reference environment (spec/20_memory.md R65, R67, R68; for TOPO against I7, assumption 22). -/
def carried (s : State) (d : Draw) (held : Word) : Word :=
  match s.env.reading with
  | .free => d.value
  | .reference => held

/-- The cells after a WRITE to processor `k` (spec/20_memory.md R64): under the reference environment written on `Ok`, and
on `Err` old or new as drawn. -/
def cellsAfter (s : State) (d : Draw) (k : Nat) (addr : MsrAddr) (v : Word) : Memory :=
  match s.env.reading with
  | .free => s.env.msr
  | .reference =>
    match d.error, d.performed with
    | none, _ => writeMsr s.env.msr k addr v
    | some _, true => writeMsr s.env.msr k addr v
    | some _, false => s.env.msr

/-! ### The events of an APPLY (spec/43_apply.md R243, R244) -/

/-- The requests of the TSC-lock pass for the processors `0..n-1`, whose HWCR reads answered `v`. -/
def lockEvents (hw : MsrAddr) (v : Nat → Word) (n : Nat) : List Event :=
  (List.range n).flatMap fun k =>
    [Event.read k hw (.ok (v k)), Event.write k hw (v k ||| 0x200000#64) (.ok ())]

/-- The requests of the broadcast pass. -/
def broadcastEvents (addr : MsrAddr) (value : Word) (n : Nat) : List Event :=
  (List.range n).map fun k => Event.write k addr value (.ok ())

/-- All requests of an APPLY that succeeds on `n` processors. -/
def applyEvents (cfg : Config) (slot : Slot) (v : Nat → Word) (n : Word) : List Event :=
  Event.topo (.ok n) ::
    ((if slot.index = 0#3 then lockEvents cfg.hwcrAddr v n.toNat else []) ++
      broadcastEvents (0xC0010064#32 + slot.index.setWidth 32) slot.raw n.toNat)

/-- The same request answered `Err(c)`. -/
def failedEvent (c : IoCode) (e : Event) : Event :=
  match e with
  | .plat b => .plat b
  | .topo _ => .topo (.err c)
  | .read k a _ => .read k a (.err c)
  | .write k a v _ => .write k a v (.err c)

/-- What `RegisterIoFailure` records of a failed request (spec/60_exceptions.md R271). -/
def failureInfo (c : IoCode) (e : Event) : ErrInfo :=
  match e with
  | .plat _ => ErrInfo.zero
  | .topo _ => ErrInfo.zero
  | .read k a _ => { ErrInfo.zero with core := BitVec.ofNat 64 k, addr := a, ioop := 1#2, iocode := c }
  | .write k a v _ => { ErrInfo.zero with core := BitVec.ofNat 64 k, addr := a, ioop := 2#2, iocode := c, value := v }

/-! ### APPLY as one sequential program (spec/43_apply.md R248) -/

/-- What the program reads and writes outside itself: the environment, the history and the draws. -/
structure Io where
  env : Env
  history : List Event
  draws : List Draw
deriving DecidableEq, Repr

/-- `TopoQuery()` (spec/00_scope.md R14); `none` when no answer comes. -/
def ioTopo (io : Io) : Option (Answer Word × Io) :=
  match io.draws with
  | [] => none
  | d :: rest =>
    let a := topoAnswer io.env d
    some (a, ⟨io.env, io.history ++ [.topo a], rest⟩)

/-- `IoRead(addr, 1 << k)` (R14). -/
def ioRead (addr : MsrAddr) (k : Nat) (io : Io) : Option (Answer Word × Io) :=
  match io.draws with
  | [] => none
  | d :: rest =>
    let a := readAnswer io.env d addr (2 ^ k)
    some (a, ⟨io.env, io.history ++ [.read k addr a], rest⟩)

/-- `IoWrite(addr, 1 << k, v)` (R14). -/
def ioWrite (addr : MsrAddr) (k : Nat) (v : Word) (io : Io) : Option (Answer Unit × Io) :=
  match io.draws with
  | [] => none
  | d :: rest =>
    let a := writeAnswer d
    some (a, ⟨envAfterWrite io.env d addr (2 ^ k) v, io.history ++ [.write k addr v a], rest⟩)

/-- The first loop of R248 over the processors `k, k+1, …` (`left` of them): `some info` is the failure it raises. -/
def lockLoop (hw : MsrAddr) (left k : Nat) (io : Io) : Option (Option ErrInfo × Io) :=
  match left with
  | 0 => some (none, io)
  | left + 1 =>
    match ioRead hw k io with
    | none => none
    | some (.err c, io) =>
      some (some { ErrInfo.zero with core := BitVec.ofNat 64 k, addr := hw, ioop := ioopRead, iocode := c }, io)
    | some (.ok v, io) =>
      let h := v ||| BitVec.ofNat 64 (1 <<< 21)
      match ioWrite hw k h io with
      | none => none
      | some (.err c, io) =>
        some (some { ErrInfo.zero with core := BitVec.ofNat 64 k, addr := hw, ioop := ioopWrite, value := h, iocode := c }, io)
      | some (.ok _, io) => lockLoop hw left (k + 1) io

/-- The second loop of R248. -/
def writeLoop (addr : MsrAddr) (value : Word) (left k : Nat) (io : Io) : Option (Option ErrInfo × Io) :=
  match left with
  | 0 => some (none, io)
  | left + 1 =>
    match ioWrite addr k value io with
    | none => none
    | some (.err c, io) =>
      some (some { ErrInfo.zero with core := BitVec.ofNat 64 k, addr := addr, ioop := ioopWrite, value := value, iocode := c }, io)
    | some (.ok _, io) => writeLoop addr value left (k + 1) io

/-- How the program ends: its status and error information, and what it left outside. -/
structure ApplyEnd where
  status : Status
  info : ErrInfo
  io : Io
deriving DecidableEq, Repr

/-- The end of a loop: the failure it raised, or what comes after it. -/
def afterLoop (r : Option (Option ErrInfo × Io)) (next : Io → Option ApplyEnd) : Option ApplyEnd :=
  match r with
  | none => none
  | some (some info, io) => some ⟨.registerIoFailure, info, io⟩
  | some (none, io) => next io

/-- APPLY as the sequential program of R248, from the registers of `s`; `none` when some request is never answered. -/
def applyProgram (s : State) : Option ApplyEnd :=
  let io : Io := ⟨s.env, s.history, s.draws⟩
  if s.guard = guardUnchecked then some ⟨.platformUnchecked, ErrInfo.zero, io⟩
  else if s.guard = guardUnsupported then some ⟨.platformUnsupported, ErrInfo.zero, io⟩
  else if s.slot.valid = false then some ⟨.noRegister, ErrInfo.zero, io⟩
  else
    let addr := pstateAddr s.slot.index.toNat
    match ioTopo io with
    | none => none
    | some (.err c, io) => some ⟨.threadCountUnknown, { ErrInfo.zero with ioop := ioopTopology, iocode := c }, io⟩
    | some (.ok n, io) =>
      if n.toNat = 0 then some ⟨.threadCountUnknown, ErrInfo.zero, io⟩
      else if s.cfg.maskWidth < n.toNat then
        some ⟨.tooManyThreads, { ErrInfo.zero with value := n, limit := BitVec.ofNat 64 s.cfg.maskWidth }, io⟩
      else
        let broadcast := fun io =>
          afterLoop (writeLoop addr s.slot.raw n.toNat 0 io) fun io => some ⟨.ok, ErrInfo.zero, io⟩
        if s.slot.index = 0#3 then afterLoop (lockLoop s.cfg.hwcrAddr n.toNat 0 io) broadcast
        else broadcast io

end Sys2Proof.Machine
end

