-- ==== Sys2Proof/Certificates/Slice0/Obligations.lean ====
section
/-! DEFINITION. The statements for the provers. Each names the rules of spec/ it formalises. A statement says "free collaborator",
"reference environment" or neither; one that says neither holds under both readings (spec/20_memory.md R68). -/

open Sys2Proof Sys2Proof.Machine

/-! ### Encoding -/

/-- R95, R96: each legal command word decodes to its command, with the operands R96 gives it, whatever the operand words. -/
def Obligations.OpcodeMapDecodes : Prop :=
  ∀ a b : Word,
    decode ⟨0x0001#16, a, b⟩ = .legal .chkplat ∧
    decode ⟨0x0002#16, a, b⟩ = .legal (.construct a b) ∧
    decode ⟨0x0003#16, a, b⟩ = .legal .getfid ∧
    decode ⟨0x0004#16, a, b⟩ = .legal .getdid ∧
    decode ⟨0x0005#16, a, b⟩ = .legal .getvid ∧
    decode ⟨0x0006#16, a, b⟩ = .legal (.setfid a) ∧
    decode ⟨0x0007#16, a, b⟩ = .legal (.setdid a) ∧
    decode ⟨0x0008#16, a, b⟩ = .legal (.setvid a) ∧
    decode ⟨0x0009#16, a, b⟩ = .legal .encode ∧
    decode ⟨0x000A#16, a, b⟩ = .legal (.ratio a b) ∧
    decode ⟨0x000B#16, a, b⟩ = .legal (.freq a b) ∧
    decode ⟨0x000C#16, a, b⟩ = .legal (.vcore a) ∧
    decode ⟨0x000D#16, a, b⟩ = .legal .ratior ∧
    decode ⟨0x000E#16, a, b⟩ = .legal .freqr ∧
    decode ⟨0x000F#16, a, b⟩ = .legal .vcorer ∧
    decode ⟨0x0010#16, a, b⟩ = .legal .describe ∧
    decode ⟨0x0011#16, a, b⟩ = .legal (.addrfor a) ∧
    decode ⟨0x0012#16, a, b⟩ = .legal .apply

/-- R100: encode then decode is the identity on every command with every operand, decode then encode gives back the word, and
the words the decoder accepts are exactly those R98 does not call illegal. -/
def Obligations.DecodeAndEncodeAgree : Prop :=
  (∀ i : Instr, decode (encode i) = .legal i) ∧
  (∀ (c : Command) (i : Instr), decode c = .legal i → (encode i).cmd = c.cmd) ∧
  (∀ c : Command, (∃ i, decode c = .legal i) ↔
    (c.cmd.toNat / 256 = 0 ∧ c.cmd.toNat % 256 ≠ 0 ∧ c.cmd.toNat % 256 < 0x13))

/-- R98: an illegal word is accepted, ends with IllegalCommand and the word in ERR_VALUE, and changes nothing else: no other
register, no request (the history and the draws stay). -/
def Obligations.IllegalWordRaisesIllegalCommand : Prop :=
  ∀ (s : State) (c : Command) (rest : List HostMove),
    s.cfg.wf = true → s.busy = false → s.host = .command c :: rest →
    (c.cmd.toNat / 256 ≠ 0 ∨ c.cmd.toNat % 256 = 0 ∨ 0x13 ≤ c.cmd.toNat % 256) →
    step s = .next { endedWith s 0x14#8 { ErrInfo.zero with value := BitVec.ofNat 64 c.cmd.toNat } with host := rest }

/-! ### The step -/

/-- R90: an idle block accepts the presented command, and the step is `exec` of the decoded command with the move taken off
the host's list. -/
def Obligations.StepExecutesThePresentedCommand : Prop :=
  ∀ (s : State) (c : Command) (i : Instr) (rest : List HostMove),
    s.cfg.wf = true → s.busy = false → s.host = .command c :: rest → decode c = .legal i →
    step s = exec i { s with host := rest }

/-- R91: while `busy = 1` a presented command has no effect on the step. That it stays presented, and that another agent's write
waits likewise (R79), is the model's choice (assumption 9). -/
def Obligations.BusyBlockHoldsCommands : Prop :=
  ∀ (s : State) (m : HostMove) (rest : List HostMove),
    s.busy = true → s.host = m :: rest → m ≠ .reset → m ≠ .poll →
    step s =
      match step { s with host := [] } with
      | .next t => .next { t with host := m :: rest }
      | .fault f => .fault f
      | .refused r => .refused r

/-- R323: a request that is never answered keeps the block waiting for ever; nothing changes, however many steps pass. An empty
list of draws is how the model says that no answer comes (assumption 2). -/
def Obligations.UnansweredRequestHangsForEver : Prop :=
  ∀ (s : State) (n : Nat),
    s.cfg.wf = true → s.busy = true → s.seq.phase ≠ .idle → s.draws = [] → commandsOnly s.host = true →
    runsTo n s s

/-- R295, R312: with no move from outside the block idles at `busy = 0`; that it idles by steps that change nothing is the model's
choice (assumption 2). -/
def Obligations.IdleBlockStaysIdle : Prop :=
  ∀ (s : State) (n : Nat), s.cfg.wf = true → s.busy = false → s.host = [] → runsTo n s s

/-- R42: the reset value of every block register. -/
def Obligations.ResetValuesOfBlockRegisters : Prop :=
  State.reset.slot = ⟨false, 0#3, 0#64⟩ ∧ State.reset.guard = 0#2 ∧ State.reset.busy = false ∧
  State.reset.seq = ⟨.idle, 0#64, 0#64, 0#32, 0#64, false, 0#64⟩ ∧ State.reset.status = 0x00#8 ∧
  State.reset.err = ⟨0#2, 0#2, 0#64, 0#64, 0#64, 0#32, 0#2, 0#32⟩ ∧
  State.reset.res = ⟨0#64, 0#64, 0#64, 0#64, 0#64, 0#64⟩ ∧ State.reset.history = []

/-- R310, R311: the reset move is taken at any time, busy or not; it resets every block register and the history, and leaves
the configuration and the environment, but that an abandoned WRITE of the reference environment may have been performed.
That the draw which would have answered the request is used up is the model's choice (assumption 8), and so is that under the
free collaborator no cell is written (assumption 4). -/
def Obligations.ResetMoveResetsTheBlock : Prop :=
  ∀ (s : State) (rest : List HostMove), s.cfg.wf = true → s.host = .reset :: rest →
    ∃ (t : State) (cells : Memory), step s = .next t ∧
      t = { State.reset with
            cfg := s.cfg
            host := rest
            env := { s.env with msr := cells }
            draws := if s.seq.phase = .idle then s.draws else s.draws.tail } ∧
      (cells = s.env.msr ∨
        (s.seq.phase = .tscWrWait ∧ s.env.reading = .reference ∧
          cells = writeMsr s.env.msr s.seq.k.toNat s.cfg.hwcrAddr s.seq.hw) ∨
        (s.seq.phase = .bcWrWait ∧ s.env.reading = .reference ∧
          cells = writeMsr s.env.msr s.seq.k.toNat s.seq.addr s.seq.value))

/-- R10: every configuration that is not well formed is refused, and the defaults are well formed. -/
def Obligations.IllFormedConfigurationIsRefused : Prop :=
  (∀ s : State,
    ¬ (s.cfg.fidMin ≤ s.cfg.fidMax ∧ s.cfg.fidMax ≤ 0xFF ∧ s.cfg.didMin ≤ s.cfg.didMax ∧ s.cfg.didMax ≤ 0x3F ∧
        s.cfg.vidMin ≤ s.cfg.vidMax ∧ s.cfg.vidMax ≤ 0xFF ∧ 1 ≤ s.cfg.didMin) →
    step s = .refused .configIllFormed) ∧
  Config.standard.wf = true

/-- R20, R39: no step changes the configuration, and only a WRITE the block has outstanding, or another agent, changes a cell.
That `N_hw` and the platform answer stay fixed under the reference environment, where I7 calls PLAT and TOPO draws, is the
model's choice (assumption 22). -/
def Obligations.ConfigurationAndCellsAreStable : Prop :=
  ∀ s t : State, step s = .next t →
    t.cfg = s.cfg ∧ t.env.reading = s.env.reading ∧ t.env.nHw = s.env.nHw ∧ t.env.supported = s.env.supported ∧
    (s.seq.phase ≠ .tscWrWait → s.seq.phase ≠ .bcWrWait →
      (∀ k a v rest, s.host ≠ .outsideWrite k a v :: rest) → t.env.msr = s.env.msr)

/-- R78, R324: between commands another agent may write an MSR; only that cell changes, and the slot does not see it. The move
itself is the model's form of that agent (assumption 9). -/
def Obligations.OutsideWriteDoesNotReachTheSlot : Prop :=
  ∀ (s : State) (k : Nat) (a : MsrAddr) (v : Word) (rest : List HostMove),
    s.cfg.wf = true → s.busy = false → s.host = .outsideWrite k a v :: rest → Memory.wf s.env.msr = true →
    ∃ cells : Memory, step s = .next { s with host := rest, env := { s.env with msr := cells } } ∧
      readMsr cells k a = v ∧ ∀ k' a', (k' ≠ k ∨ a' ≠ a) → readMsr cells k' a' = readMsr s.env.msr k' a'

/-! ### The register codec -/

/-- R121: CONSTRUCT checks the index, then the enabled bit, and nothing else; it fills the slot or empties it. -/
def Obligations.ConstructFillsOrEmptiesTheSlot : Prop :=
  ∀ (s : State) (index raw : Word),
    (encode (.construct index raw)).cmd = 0x0002#16 ∧
    (7 < index.toNat → exec (.construct index raw) s =
      .next { endedWith s 0x03#8 { ErrInfo.zero with value := index, limit := 7#64 } with
              slot := { s.slot with valid := false } }) ∧
    (index.toNat ≤ 7 → raw.toNat < 2 ^ 63 → exec (.construct index raw) s =
      .next { endedWith s 0x02#8 { ErrInfo.zero with value := raw } with slot := { s.slot with valid := false } }) ∧
    (index.toNat ≤ 7 → 2 ^ 63 ≤ raw.toNat → exec (.construct index raw) s =
      .next { endedWith s 0x00#8 ErrInfo.zero with slot := ⟨true, BitVec.ofNat 3 index.toNat, raw⟩ })

/-- R122: GETFID. -/
def Obligations.GetfidDeliversBitsSevenToZero : Prop :=
  ∀ s : State,
    (encode .getfid).cmd = 0x0003#16 ∧
    (s.slot.valid = true → exec .getfid s =
      .next { endedWith s 0x00#8 ErrInfo.zero with
              res := { s.res with res0 := BitVec.ofNat 64 (s.slot.raw.toNat % 2 ^ 8) } }) ∧
    (s.slot.valid = false → exec .getfid s = .next (endedWith s 0x11#8 ErrInfo.zero))

/-- R123: GETDID. -/
def Obligations.GetdidDeliversBitsThirteenToEight : Prop :=
  ∀ s : State,
    (encode .getdid).cmd = 0x0004#16 ∧
    (s.slot.valid = true → exec .getdid s =
      .next { endedWith s 0x00#8 ErrInfo.zero with
              res := { s.res with res0 := BitVec.ofNat 64 (s.slot.raw.toNat / 2 ^ 8 % 2 ^ 6) } }) ∧
    (s.slot.valid = false → exec .getdid s = .next (endedWith s 0x11#8 ErrInfo.zero))

/-- R124: GETVID. -/
def Obligations.GetvidDeliversBitsTwentyOneToFourteen : Prop :=
  ∀ s : State,
    (encode .getvid).cmd = 0x0005#16 ∧
    (s.slot.valid = true → exec .getvid s =
      .next { endedWith s 0x00#8 ErrInfo.zero with
              res := { s.res with res0 := BitVec.ofNat 64 (s.slot.raw.toNat / 2 ^ 14 % 2 ^ 8) } }) ∧
    (s.slot.valid = false → exec .getvid s = .next (endedWith s 0x11#8 ErrInfo.zero))

/-- R131, R139: SETFID. The bounds are the configuration's (R10); by default [0x10, 0xFF]. -/
def Obligations.SetfidCommitsWithinBounds : Prop :=
  ∀ (s : State) (v : Word),
    (encode (.setfid v)).cmd = 0x0006#16 ∧ Config.standard.fidMin = 0x10 ∧ Config.standard.fidMax = 0xFF ∧
    (s.slot.valid = false → exec (.setfid v) s = .next (endedWith s 0x11#8 ErrInfo.zero)) ∧
    (s.slot.valid = true → v.toNat < s.cfg.fidMin → exec (.setfid v) s =
      .next (endedWith s 0x04#8
        { ErrInfo.zero with field := 1#2, bound := 1#2, limit := BitVec.ofNat 64 s.cfg.fidMin, value := v })) ∧
    (s.slot.valid = true → s.cfg.fidMin ≤ v.toNat → s.cfg.fidMax < v.toNat → exec (.setfid v) s =
      .next (endedWith s 0x04#8
        { ErrInfo.zero with field := 1#2, bound := 2#2, limit := BitVec.ofNat 64 s.cfg.fidMax, value := v })) ∧
    (s.slot.valid = true → s.cfg.fidMin ≤ v.toNat → v.toNat ≤ s.cfg.fidMax → exec (.setfid v) s =
      .next { endedWith s 0x00#8 ErrInfo.zero with
              slot := { s.slot with raw := (s.slot.raw &&& 0xFFFFFFFFFFFFFF00#64) ||| v } })

/-- R132, R139: SETDID. The bounds are the configuration's (R10); by default [0x08, 0x1A]. -/
def Obligations.SetdidCommitsWithinBounds : Prop :=
  ∀ (s : State) (v : Word),
    (encode (.setdid v)).cmd = 0x0007#16 ∧ Config.standard.didMin = 0x08 ∧ Config.standard.didMax = 0x1A ∧
    (s.slot.valid = false → exec (.setdid v) s = .next (endedWith s 0x11#8 ErrInfo.zero)) ∧
    (s.slot.valid = true → v.toNat < s.cfg.didMin → exec (.setdid v) s =
      .next (endedWith s 0x04#8
        { ErrInfo.zero with field := 2#2, bound := 1#2, limit := BitVec.ofNat 64 s.cfg.didMin, value := v })) ∧
    (s.slot.valid = true → s.cfg.didMin ≤ v.toNat → s.cfg.didMax < v.toNat → exec (.setdid v) s =
      .next (endedWith s 0x04#8
        { ErrInfo.zero with field := 2#2, bound := 2#2, limit := BitVec.ofNat 64 s.cfg.didMax, value := v })) ∧
    (s.slot.valid = true → s.cfg.didMin ≤ v.toNat → v.toNat ≤ s.cfg.didMax → exec (.setdid v) s =
      .next { endedWith s 0x00#8 ErrInfo.zero with
              slot := { s.slot with raw := (s.slot.raw &&& 0xFFFFFFFFFFFFC0FF#64) ||| (v <<< 8) } })

/-- R133, R139: SETVID. The bounds are the configuration's (R10); by default [0x20, 0xA8]. -/
def Obligations.SetvidCommitsWithinBounds : Prop :=
  ∀ (s : State) (v : Word),
    (encode (.setvid v)).cmd = 0x0008#16 ∧ Config.standard.vidMin = 0x20 ∧ Config.standard.vidMax = 0xA8 ∧
    (s.slot.valid = false → exec (.setvid v) s = .next (endedWith s 0x11#8 ErrInfo.zero)) ∧
    (s.slot.valid = true → v.toNat < s.cfg.vidMin → exec (.setvid v) s =
      .next (endedWith s 0x04#8
        { ErrInfo.zero with field := 3#2, bound := 1#2, limit := BitVec.ofNat 64 s.cfg.vidMin, value := v })) ∧
    (s.slot.valid = true → s.cfg.vidMin ≤ v.toNat → s.cfg.vidMax < v.toNat → exec (.setvid v) s =
      .next (endedWith s 0x04#8
        { ErrInfo.zero with field := 3#2, bound := 2#2, limit := BitVec.ofNat 64 s.cfg.vidMax, value := v })) ∧
    (s.slot.valid = true → s.cfg.vidMin ≤ v.toNat → v.toNat ≤ s.cfg.vidMax → exec (.setvid v) s =
      .next { endedWith s 0x00#8 ErrInfo.zero with
              slot := { s.slot with raw := (s.slot.raw &&& 0xFFFFFFFFFFC03FFF#64) ||| (v <<< 14) } })

/-- R134: ENCODE. -/
def Obligations.EncodeDeliversTheRawValue : Prop :=
  ∀ s : State,
    (encode .encode).cmd = 0x0009#16 ∧
    (s.slot.valid = true → exec .encode s =
      .next { endedWith s 0x00#8 ErrInfo.zero with res := { s.res with res0 := s.slot.raw } }) ∧
    (s.slot.valid = false → exec .encode s = .next (endedWith s 0x11#8 ErrInfo.zero))

/-- R136: after a successful setter no bit outside its field has changed, and the field holds the operand. -/
def Obligations.SettersChangeOnlyTheirField : Prop :=
  ∀ (s : State) (v : Word) (i : Instr) (lo width : Nat) (t : State),
    s.cfg.wf = true →
    (i = .setfid v ∧ lo = 0 ∧ width = 8 ∨ i = .setdid v ∧ lo = 8 ∧ width = 6 ∨ i = .setvid v ∧ lo = 14 ∧ width = 8) →
    exec i s = .next t → t.status = 0x00#8 →
    (∀ b < 64, (b < lo ∨ lo + width ≤ b) → t.slot.raw.getLsbD b = s.slot.raw.getLsbD b) ∧
    t.slot.raw.toNat / 2 ^ lo % 2 ^ width = v.toNat ∧
    t.slot.valid = s.slot.valid ∧ t.slot.index = s.slot.index

/-- R135: CONSTRUCT with a legal index and an enabled value, then ENCODE, gives the value back, reserved bits included. -/
def Obligations.ConstructThenEncodeGivesTheValueBack : Prop :=
  ∀ (s : State) (index raw : Word) (rest : List HostMove),
    s.cfg.wf = true → s.busy = false → index.toNat ≤ 7 → raw.getLsbD 63 = true →
    s.host = .command (encode (.construct index raw)) :: .command (encode .encode) :: rest →
    ∃ t, runsTo 2 s t ∧ t.res.res0 = raw ∧ t.status = 0x00#8 ∧ t.host = rest ∧ t.slot = ⟨true, index.setWidth 3, raw⟩

/-- R22: the slot invariant holds at reset, and every step keeps it. -/
def Obligations.HeldRegisterStaysEnabled : Prop :=
  (State.reset.slot.valid = true → State.reset.slot.raw.getLsbD 63 = true) ∧
  ∀ s t : State, (s.slot.valid = true → s.slot.raw.getLsbD 63 = true) → step s = .next t →
    (t.slot.valid = true → t.slot.raw.getLsbD 63 = true ∧ t.slot.index.toNat ≤ 7)

/-- R140: over any run without a CONSTRUCT and without a reset the slot stays, its bits 63:22 stay, and each field holds its
old value or one within its bounds. -/
def Obligations.FieldsHoldConstructedOrCommittedValues : Prop :=
  ∀ (n : Nat) (s t : State), keepsRegister s.host = true → s.slot.valid = true → runsTo n s t →
    t.slot.valid = true ∧ t.slot.index = s.slot.index ∧
    t.slot.raw.toNat / 2 ^ 22 = s.slot.raw.toNat / 2 ^ 22 ∧
    (t.slot.raw.toNat % 2 ^ 8 = s.slot.raw.toNat % 2 ^ 8 ∨
      s.cfg.fidMin ≤ t.slot.raw.toNat % 2 ^ 8 ∧ t.slot.raw.toNat % 2 ^ 8 ≤ s.cfg.fidMax) ∧
    (t.slot.raw.toNat / 2 ^ 8 % 2 ^ 6 = s.slot.raw.toNat / 2 ^ 8 % 2 ^ 6 ∨
      s.cfg.didMin ≤ t.slot.raw.toNat / 2 ^ 8 % 2 ^ 6 ∧ t.slot.raw.toNat / 2 ^ 8 % 2 ^ 6 ≤ s.cfg.didMax) ∧
    (t.slot.raw.toNat / 2 ^ 14 % 2 ^ 8 = s.slot.raw.toNat / 2 ^ 14 % 2 ^ 8 ∨
      s.cfg.vidMin ≤ t.slot.raw.toNat / 2 ^ 14 % 2 ^ 8 ∧ t.slot.raw.toNat / 2 ^ 14 % 2 ^ 8 ≤ s.cfg.vidMax)

/-! ### Derived quantities -/

/-- R172: RATIO. -/
def Obligations.RatioDeliversTheExactQuotient : Prop :=
  ∀ (s : State) (fid did : Word),
    (encode (.ratio fid did)).cmd = 0x000A#16 ∧
    (0xFF < fid.toNat → exec (.ratio fid did) s =
      .next (endedWith s 0x13#8 { ErrInfo.zero with field := 1#2, value := fid, limit := 0xFF#64 })) ∧
    (fid.toNat ≤ 0xFF → 0xFF < did.toNat → exec (.ratio fid did) s =
      .next (endedWith s 0x13#8 { ErrInfo.zero with field := 2#2, value := did, limit := 0xFF#64 })) ∧
    (fid.toNat ≤ 0xFF → did.toNat = 0 → exec (.ratio fid did) s =
      .next (endedWith s 0x12#8 { ErrInfo.zero with field := 2#2 })) ∧
    (fid.toNat ≤ 0xFF → 1 ≤ did.toNat → did.toNat ≤ 0xFF → exec (.ratio fid did) s =
      .next { endedWith s 0x00#8 ErrInfo.zero with
              res := { s.res with res0 := BitVec.ofNat 64 (2 * fid.toNat), res1 := did } })

/-- R173: FREQ. -/
def Obligations.FreqDeliversTheExactQuotient : Prop :=
  ∀ (s : State) (fid did : Word),
    (encode (.freq fid did)).cmd = 0x000B#16 ∧
    (0xFF < fid.toNat → exec (.freq fid did) s =
      .next (endedWith s 0x13#8 { ErrInfo.zero with field := 1#2, value := fid, limit := 0xFF#64 })) ∧
    (fid.toNat ≤ 0xFF → 0xFF < did.toNat → exec (.freq fid did) s =
      .next (endedWith s 0x13#8 { ErrInfo.zero with field := 2#2, value := did, limit := 0xFF#64 })) ∧
    (fid.toNat ≤ 0xFF → did.toNat = 0 → exec (.freq fid did) s =
      .next (endedWith s 0x12#8 { ErrInfo.zero with field := 2#2 })) ∧
    (fid.toNat ≤ 0xFF → 1 ≤ did.toNat → did.toNat ≤ 0xFF → exec (.freq fid did) s =
      .next { endedWith s 0x00#8 ErrInfo.zero with
              res := { s.res with res0 := BitVec.ofNat 64 (200 * fid.toNat), res1 := did } })

/-- R174: VCORE; the delivered word is the signed number of microvolts. -/
def Obligations.VcoreDeliversSignedMicrovolts : Prop :=
  ∀ (s : State) (vid : Word),
    (encode (.vcore vid)).cmd = 0x000C#16 ∧
    (0xFF < vid.toNat → exec (.vcore vid) s =
      .next (endedWith s 0x13#8 { ErrInfo.zero with field := 3#2, value := vid, limit := 0xFF#64 })) ∧
    (vid.toNat ≤ 0xFF → ∃ uv : Word, uv.toInt = 1550000 - 6250 * (vid.toNat : Int) ∧
      exec (.vcore vid) s =
        .next { endedWith s 0x00#8 ErrInfo.zero with res := { s.res with res0 := uv } })

/-- R175: RATIOR. -/
def Obligations.RatiorDeliversTheSlotsQuotient : Prop :=
  ∀ s : State,
    (encode .ratior).cmd = 0x000D#16 ∧
    (s.slot.valid = false → exec .ratior s = .next (endedWith s 0x11#8 ErrInfo.zero)) ∧
    (s.slot.valid = true → s.slot.raw.toNat / 2 ^ 8 % 2 ^ 6 = 0 → exec .ratior s =
      .next (endedWith s 0x12#8 { ErrInfo.zero with field := 2#2 })) ∧
    (s.slot.valid = true → s.slot.raw.toNat / 2 ^ 8 % 2 ^ 6 ≠ 0 → exec .ratior s =
      .next { endedWith s 0x00#8 ErrInfo.zero with
              res := { s.res with
                res0 := BitVec.ofNat 64 (2 * (s.slot.raw.toNat % 2 ^ 8))
                res1 := BitVec.ofNat 64 (s.slot.raw.toNat / 2 ^ 8 % 2 ^ 6) } })

/-- R176: FREQR. -/
def Obligations.FreqrDeliversTheSlotsQuotient : Prop :=
  ∀ s : State,
    (encode .freqr).cmd = 0x000E#16 ∧
    (s.slot.valid = false → exec .freqr s = .next (endedWith s 0x11#8 ErrInfo.zero)) ∧
    (s.slot.valid = true → s.slot.raw.toNat / 2 ^ 8 % 2 ^ 6 = 0 → exec .freqr s =
      .next (endedWith s 0x12#8 { ErrInfo.zero with field := 2#2 })) ∧
    (s.slot.valid = true → s.slot.raw.toNat / 2 ^ 8 % 2 ^ 6 ≠ 0 → exec .freqr s =
      .next { endedWith s 0x00#8 ErrInfo.zero with
              res := { s.res with
                res0 := BitVec.ofNat 64 (200 * (s.slot.raw.toNat % 2 ^ 8))
                res1 := BitVec.ofNat 64 (s.slot.raw.toNat / 2 ^ 8 % 2 ^ 6) } })

/-- R177: VCORER. -/
def Obligations.VcorerDeliversTheSlotsMicrovolts : Prop :=
  ∀ s : State,
    (encode .vcorer).cmd = 0x000F#16 ∧
    (s.slot.valid = false → exec .vcorer s = .next (endedWith s 0x11#8 ErrInfo.zero)) ∧
    (s.slot.valid = true →
      ∃ uv : Word, uv.toInt = 1550000 - 6250 * ((s.slot.raw.toNat / 2 ^ 14 % 2 ^ 8 : Nat) : Int) ∧
      exec .vcorer s =
        .next { endedWith s 0x00#8 ErrInfo.zero with res := { s.res with res0 := uv } })

/-- R180: DESCRIBE. -/
def Obligations.DescribeDeliversTheSnapshot : Prop :=
  ∀ s : State,
    (encode .describe).cmd = 0x0010#16 ∧
    (s.slot.valid = false → exec .describe s = .next (endedWith s 0x11#8 ErrInfo.zero)) ∧
    (s.slot.valid = true → s.slot.raw.toNat / 2 ^ 8 % 2 ^ 6 = 0 → exec .describe s =
      .next (endedWith s 0x12#8 { ErrInfo.zero with field := 2#2 })) ∧
    (s.slot.valid = true → s.slot.raw.toNat / 2 ^ 8 % 2 ^ 6 ≠ 0 →
      ∃ uv : Word, uv.toInt = 1550000 - 6250 * ((s.slot.raw.toNat / 2 ^ 14 % 2 ^ 8 : Nat) : Int) ∧
      exec .describe s =
        .next { endedWith s 0x00#8 ErrInfo.zero with
                res := ⟨BitVec.ofNat 64 (s.slot.raw.toNat % 2 ^ 8),
                        BitVec.ofNat 64 (s.slot.raw.toNat / 2 ^ 8 % 2 ^ 6),
                        BitVec.ofNat 64 (s.slot.raw.toNat / 2 ^ 14 % 2 ^ 8),
                        BitVec.ofNat 64 (2 * (s.slot.raw.toNat % 2 ^ 8)),
                        BitVec.ofNat 64 (200 * (s.slot.raw.toNat % 2 ^ 8)), uv⟩ })

/-- R179: FREQ is RATIO times 100 with the same denominator; the instance commands give what the static ones give on the
getters' results; VCORE falls by 6250 microvolts a step. -/
def Obligations.DerivedCommandsObeyTheirLaws : Prop :=
  (∀ (s t u : State) (fid did : Word), fid.toNat ≤ 0xFF → 1 ≤ did.toNat → did.toNat ≤ 0xFF →
    exec (.ratio fid did) s = .next t → exec (.freq fid did) s = .next u →
    u.res.res0.toNat = 100 * t.res.res0.toNat ∧ u.res.res1 = t.res.res1) ∧
  (∀ (s f d v : State), s.slot.valid = true →
    exec .getfid s = .next f → exec .getdid s = .next d → exec .getvid s = .next v →
    exec .ratior s = exec (.ratio f.res.res0 d.res.res0) s ∧
    exec .freqr s = exec (.freq f.res.res0 d.res.res0) s ∧
    exec .vcorer s = exec (.vcore v.res.res0) s) ∧
  (∀ (s t u : State) (vid : Word), vid.toNat < 0xFF →
    exec (.vcore vid) s = .next t → exec (.vcore (vid + 1#64)) s = .next u →
    u.res.res0.toInt = t.res.res0.toInt - 6250)

/-! ### The selector -/

/-- R201: ADDRFOR. -/
def Obligations.AddrforMapsTheIndex : Prop :=
  ∀ (s : State) (index : Word),
    (encode (.addrfor index)).cmd = 0x0011#16 ∧
    (7 < index.toNat → exec (.addrfor index) s =
      .next (endedWith s 0x03#8 { ErrInfo.zero with value := index, limit := 7#64 })) ∧
    (index.toNat ≤ 7 → exec (.addrfor index) s =
      .next { endedWith s 0x00#8 ErrInfo.zero with
              res := { s.res with res0 := BitVec.ofNat 64 (0xC0010064 + index.toNat) } })

/-! ### The platform guard and APPLY -/

/-- R221: CHKPLAT on acceptance, its step on the guard's answer, and that only a reset returns the guard to UNCHECKED. That the
reference environment's answer is its fixed boolean is R68's; following it against I7, which calls it a draw, is the model's
choice (assumption 22). -/
def Obligations.ChkplatAsksOnceAndLatches : Prop :=
  (encode .chkplat).cmd = 0x0001#16 ∧
  (∀ s : State,
    (s.guard = 1#2 → exec .chkplat s = .next (endedWith s 0x00#8 ErrInfo.zero)) ∧
    (s.guard = 2#2 → exec .chkplat s = .next (endedWith s 0x01#8 ErrInfo.zero)) ∧
    (s.guard ≠ 1#2 → s.guard ≠ 2#2 → exec .chkplat s =
      .next { s with err := ErrInfo.zero, busy := true, seq := { s.seq with phase := .platWait } })) ∧
  (∀ (s : State) (d : Draw) (rest : List Draw) (b : Bool), waiting s .platWait d rest →
    (s.env.reading = .free ∧ d.supported = b ∨ s.env.reading = .reference ∧ s.env.supported = b) →
    (b = true → step s =
      .next { endedWith s 0x00#8 s.err with guard := 1#2, history := s.history ++ [.plat true], draws := rest }) ∧
    (b = false → step s =
      .next { endedWith s 0x01#8 ErrInfo.zero with guard := 2#2, history := s.history ++ [.plat false], draws := rest })) ∧
  (∀ s t : State, (∀ rest, s.host ≠ .reset :: rest) → step s = .next t → s.guard ≠ 0#2 → t.guard ≠ 0#2)

/-- R225, R226: APPLY's checks in their order, and its launch. -/
def Obligations.ApplyChecksThenLaunches : Prop :=
  ∀ s : State,
    (encode .apply).cmd = 0x0012#16 ∧
    (s.guard = 0#2 → exec .apply s = .next (endedWith s 0x10#8 ErrInfo.zero)) ∧
    (s.guard = 2#2 → exec .apply s = .next (endedWith s 0x01#8 ErrInfo.zero)) ∧
    (s.guard = 1#2 → s.slot.valid = false → exec .apply s = .next (endedWith s 0x11#8 ErrInfo.zero)) ∧
    (s.guard = 1#2 → s.slot.valid = true → exec .apply s =
      .next { s with
              err := ErrInfo.zero
              busy := true
              seq := { phase := .topoWait, k := 0#64, n := 0#64,
                       addr := BitVec.ofNat 32 (0xC0010064 + s.slot.index.toNat), value := s.slot.raw,
                       tsc := decide (s.slot.index.toNat = 0), hw := 0#64 } })

/-- R232, R233, R235: the step on the topology answer. That an `Ok` of the reference environment carries `N_hw` is R67's;
following it against I7, which calls the answer a draw, is the model's choice (assumption 22). -/
def Obligations.TopologyAnswerSetsTheCount : Prop :=
  ∀ (s : State) (d : Draw) (rest : List Draw), waiting s .topoWait d rest →
    (∀ c, d.error = some c → step s =
      .next { endedWith s 0x05#8 { ErrInfo.zero with ioop := 3#2, iocode := c } with
              history := s.history ++ [.topo (.err c)], draws := rest }) ∧
    (∀ n, d.error = none → carried s d s.env.nHw = n →
      (n.toNat = 0 → step s =
        .next { endedWith s 0x05#8 ErrInfo.zero with history := s.history ++ [.topo (.ok n)], draws := rest }) ∧
      (1 ≤ n.toNat → s.cfg.maskWidth < n.toNat → step s =
        .next { endedWith s 0x06#8 { ErrInfo.zero with value := n, limit := BitVec.ofNat 64 s.cfg.maskWidth } with
                history := s.history ++ [.topo (.ok n)], draws := rest }) ∧
      (1 ≤ n.toNat → n.toNat ≤ s.cfg.maskWidth → step s =
        .next { s with
                seq := { s.seq with n := n, k := 0#64, phase := if s.seq.tsc = true then .tscRdWait else .bcWrWait }
                history := s.history ++ [.topo (.ok n)]
                draws := rest }))

/-- R237, R238: the step on the answer to the HWCR read; the value written back differs from the one read in bit 21 at most. -/
def Obligations.HwcrReadSetsTheLockBit : Prop :=
  ∀ (s : State) (d : Draw) (rest : List Draw), waiting s .tscRdWait d rest →
    (∀ c, d.error = some c → step s =
      .next { endedWith s 0x07#8
                { ErrInfo.zero with core := s.seq.k, addr := s.cfg.hwcrAddr, ioop := 1#2, iocode := c } with
              history := s.history ++ [.read s.seq.k.toNat s.cfg.hwcrAddr (.err c)], draws := rest }) ∧
    (∀ v, d.error = none → carried s d (readMsr s.env.msr s.seq.k.toNat s.cfg.hwcrAddr) = v →
      ∃ h : Word, (∀ b < 64, h.getLsbD b = (v.getLsbD b || decide (b = 21))) ∧
        step s =
          .next { s with
                  seq := { s.seq with hw := h, phase := .tscWrWait }
                  history := s.history ++ [.read s.seq.k.toNat s.cfg.hwcrAddr (.ok v)]
                  draws := rest })

/-- The step on the answer to the HWCR write: the registers and the history as R239, the cells under the reference environment
as R64. That a WRITE under the free collaborator leaves the cells is the model's choice (DESIGN CHOICE, assumption 4). -/
def Obligations.HwcrWriteGoesOnOrFails : Prop :=
  ∀ (s : State) (d : Draw) (rest : List Draw) (e : Env), waiting s .tscWrWait d rest →
    e = { s.env with msr := cellsAfter s d s.seq.k.toNat s.cfg.hwcrAddr s.seq.hw } →
    (∀ c, d.error = some c → step s =
      .next { endedWith s 0x07#8
                { ErrInfo.zero with
                  core := s.seq.k, addr := s.cfg.hwcrAddr, ioop := 2#2, value := s.seq.hw, iocode := c } with
              env := e
              history := s.history ++ [.write s.seq.k.toNat s.cfg.hwcrAddr s.seq.hw (.err c)]
              draws := rest }) ∧
    (d.error = none → s.seq.k.toNat + 1 < s.seq.n.toNat → step s =
      .next { s with
              seq := { s.seq with k := s.seq.k + 1#64, phase := .tscRdWait }
              env := e
              history := s.history ++ [.write s.seq.k.toNat s.cfg.hwcrAddr s.seq.hw (.ok ())]
              draws := rest }) ∧
    (d.error = none → s.seq.n.toNat ≤ s.seq.k.toNat + 1 → step s =
      .next { s with
              seq := { s.seq with k := 0#64, phase := .bcWrWait }
              env := e
              history := s.history ++ [.write s.seq.k.toNat s.cfg.hwcrAddr s.seq.hw (.ok ())]
              draws := rest })

/-- The step on the answer to a broadcast write: the registers and the history as R241, the cells under the reference
environment as R64. That a WRITE under the free collaborator leaves the cells is the model's choice (DESIGN CHOICE,
assumption 4). -/
def Obligations.BroadcastWriteGoesOnCompletesOrFails : Prop :=
  ∀ (s : State) (d : Draw) (rest : List Draw) (e : Env), waiting s .bcWrWait d rest →
    e = { s.env with msr := cellsAfter s d s.seq.k.toNat s.seq.addr s.seq.value } →
    (∀ c, d.error = some c → step s =
      .next { endedWith s 0x07#8
                { ErrInfo.zero with
                  core := s.seq.k, addr := s.seq.addr, ioop := 2#2, value := s.seq.value, iocode := c } with
              env := e
              history := s.history ++ [.write s.seq.k.toNat s.seq.addr s.seq.value (.err c)]
              draws := rest }) ∧
    (d.error = none → s.seq.k.toNat + 1 < s.seq.n.toNat → step s =
      .next { s with
              seq := { s.seq with k := s.seq.k + 1#64 }
              env := e
              history := s.history ++ [.write s.seq.k.toNat s.seq.addr s.seq.value (.ok ())]
              draws := rest }) ∧
    (d.error = none → s.seq.n.toNat ≤ s.seq.k.toNat + 1 → step s =
      .next { endedWith s 0x00#8 s.err with
              env := e
              history := s.history ++ [.write s.seq.k.toNat s.seq.addr s.seq.value (.ok ())]
              draws := rest })

/-- R66: every READ and WRITE the block has outstanding carries a mask with exactly one bit set, bit `seq.k`, which fits in
`MASK_WIDTH` bits because `seq.k < seq.N <= MASK_WIDTH`. -/
def Obligations.EveryMsrRequestIsOneHot : Prop :=
  ∀ (s : State) (addr : MsrAddr) (mask : Nat) (value : Word), s.Inv →
    (outstanding s = some (.read addr mask) ∨ outstanding s = some (.write addr mask value)) →
    s.seq.k.toNat < s.seq.n.toNat ∧ s.seq.n.toNat ≤ s.cfg.maskWidth ∧ mask < 2 ^ s.cfg.maskWidth ∧
    ∀ j, mask.testBit j = decide (j = s.seq.k.toNat)

/-- R60: the only addresses the block ever sends are HWCR_ADDR and the eight P-state addresses. -/
def Obligations.OnlyHwcrAndPstateAddressesAreSent : Prop :=
  ∀ (s : State) (addr : MsrAddr) (mask : Nat) (value : Word), s.Inv →
    (outstanding s = some (.read addr mask) ∨ outstanding s = some (.write addr mask value)) →
    addr = s.cfg.hwcrAddr ∨ (0xC0010064 ≤ addr.toNat ∧ addr.toNat ≤ 0xC001006B)

/-- R64, reference environment: a WRITE answered `Ok` has been performed, one answered `Err` left the old value or the new
one, and no other cell changes. -/
def Obligations.ReferenceWriteChangesOneCell : Prop :=
  ∀ (s t : State) (addr : MsrAddr) (mask : Nat) (value : Word) (d : Draw) (rest : List Draw),
    s.env.reading = .reference → Memory.wf s.env.msr = true →
    waiting s s.seq.phase d rest → outstanding s = some (.write addr mask value) → step s = .next t →
    (d.error = none → readMsr t.env.msr s.seq.k.toNat addr = value) ∧
    (readMsr t.env.msr s.seq.k.toNat addr = value ∨
      readMsr t.env.msr s.seq.k.toNat addr = readMsr s.env.msr s.seq.k.toNat addr) ∧
    (∀ k a, (k ≠ s.seq.k.toNat ∨ a ≠ addr) → readMsr t.env.msr k a = readMsr s.env.msr k a) ∧
    Memory.wf t.env.msr = true

/-- R65, reference environment: a READ is answered with the cell of the selected processor or with `Err`, and no cell
changes. -/
def Obligations.ReferenceReadReturnsTheCell : Prop :=
  ∀ (s t : State) (addr : MsrAddr) (mask : Nat) (d : Draw) (rest : List Draw),
    s.env.reading = .reference → waiting s s.seq.phase d rest → outstanding s = some (.read addr mask) →
    step s = .next t →
    t.env = s.env ∧
    (t.history = s.history ++ [.read s.seq.k.toNat addr (.ok (readMsr s.env.msr s.seq.k.toNat addr))] ∨
      ∃ c, d.error = some c ∧ t.history = s.history ++ [.read s.seq.k.toNat addr (.err c)])

/-- R245, R247, R23: a step of a busy block changes neither the slot nor the results, changes the guard only in PLAT_WAIT, and
keeps the target address and value. A reset excepted. -/
def Obligations.BusyStepsKeepTheSlot : Prop :=
  ∀ s t : State, s.busy = true → (∀ rest, s.host ≠ .reset :: rest) → step s = .next t →
    t.slot = s.slot ∧ t.res = s.res ∧ (s.seq.phase ≠ .platWait → t.guard = s.guard) ∧
    t.seq.addr = s.seq.addr ∧ t.seq.value = s.seq.value ∧ t.seq.tsc = s.seq.tsc

/-- R248: a presented APPLY that completes ends as the sequential program says, with the slot, the guard, the results and the
configuration unchanged; and where the program has no end because an answer never comes, the block stays busy for ever. Steps
and program send their WRITEs to the same collaborator, so this says that they leave the same cells, and not which (R64 says
that for the reference environment, assumption 4 for the free collaborator). -/
def Obligations.ApplyIsTheSequentialProgram : Prop :=
  ∀ (s : State) (c : Command) (rest : List HostMove), presents s c rest → decode c = .legal .apply →
    (∀ e, applyProgram s = some e →
      ∃ (waits : Nat) (t : State), completesIn waits s t ∧ t.status = statusCode e.status ∧ t.err = e.info ∧
        t.env = e.io.env ∧ t.history = e.io.history ∧ t.draws = e.io.draws ∧ t.host = rest ∧
        t.slot = s.slot ∧ t.guard = s.guard ∧ t.res = s.res ∧ t.cfg = s.cfg) ∧
    (applyProgram s = none → ∀ n, ∃ t, runsTo (n + 1) s t ∧ t.busy = true)

/-- R243: the requests of a successful APPLY are exactly those of R243, in order; in the reference environment the target
register of every processor holds the value, HWCR of every processor has bit 21 set and its other bits unchanged when the
index is 0, and no other cell has changed. That the count is `N_hw` there
is R67's, followed against I7 by the model's choice (assumption 22). -/
def Obligations.SuccessfulApplySendsExactlyItsRequests : Prop :=
  ∀ (s t : State) (c : Command) (rest : List HostMove) (waits : Nat), presents s c rest → decode c = .legal .apply →
    completesIn waits s t → t.status = 0x00#8 →
    ∃ (n : Word) (v : Nat → Word), 1 ≤ n.toNat ∧ n.toNat ≤ s.cfg.maskWidth ∧
      t.history = s.history ++ applyEvents s.cfg s.slot v n ∧
      waits = (if s.slot.index = 0#3 then 1 + 3 * n.toNat else 1 + n.toNat) ∧
      (s.env.reading = .reference → Memory.wf s.env.msr = true →
        n = s.env.nHw ∧
        (∀ k < n.toNat, readMsr t.env.msr k (0xC0010064#32 + s.slot.index.setWidth 32) = s.slot.raw) ∧
        (s.slot.index = 0#3 → s.cfg.hwcrAddr ≠ 0xC0010064#32 → ∀ k < n.toNat, ∀ b < 64,
          (readMsr t.env.msr k s.cfg.hwcrAddr).getLsbD b =
            ((readMsr s.env.msr k s.cfg.hwcrAddr).getLsbD b || decide (b = 21))) ∧
        (∀ k a, (n.toNat ≤ k ∨
            (a ≠ 0xC0010064#32 + s.slot.index.setWidth 32 ∧ (s.slot.index = 0#3 → a ≠ s.cfg.hwcrAddr))) →
          readMsr t.env.msr k a = readMsr s.env.msr k a))

/-- R244: an APPLY that ends with RegisterIoFailure sent a beginning of the requests of R243; the last of them failed, is
the one the error registers describe, and nothing follows it. -/
def Obligations.FailedApplyStopsAtTheFailure : Prop :=
  ∀ (s t : State) (c : Command) (rest : List HostMove) (waits : Nat), presents s c rest → decode c = .legal .apply →
    completesIn waits s t → t.status = 0x07#8 →
    ∃ (n : Word) (v : Nat → Word) (done : List Event) (failed : Event) (unsent : List Event) (code : IoCode),
      applyEvents s.cfg s.slot v n = done ++ failed :: unsent ∧ done ≠ [] ∧
      t.history = s.history ++ done ++ [failedEvent code failed] ∧
      t.err = failureInfo code failed

/-- R320, R246: in every run, before a write to P-state register 0 of any processor, the HWCR write with bit 21 set has
completed on every one of the processors counted by that APPLY. The premise that HWCR_ADDR is not that register keeps the
two kinds of write apart; the spec fixes no HWCR_ADDR (assumption 3). -/
def Obligations.TscLockPrecedesEveryBaseWrite : Prop :=
  ∀ (n : Nat) (s t : State) (before after : List Event) (k : Nat) (v : Word) (a : Answer Unit),
    s.Inv → s.busy = false → s.history = [] → s.cfg.hwcrAddr ≠ 0xC0010064#32 →
    runsTo n s t → t.history = before ++ .write k 0xC0010064#32 v a :: after →
    ∃ (count : Word) (earlier since : List Event), before = earlier ++ .topo (.ok count) :: since ∧
      (∀ x, Event.topo x ∉ since) ∧ k < count.toNat ∧
      ∀ j < count.toNat, ∃ h : Word, Event.write j s.cfg.hwcrAddr h (.ok ()) ∈ since ∧ h.getLsbD 21 = true

/-- R330, R331: every command completes. All but CHKPLAT and APPLY take one step and no request; CHKPLAT takes at most one
request; APPLY at most 1 + 3 * MASK_WIDTH, given that the collaborator answers (the fairness premise of R330). -/
def Obligations.EveryCommandCompletesInBoundedSteps : Prop :=
  ∀ (s : State) (c : Command) (rest : List HostMove), presents s c rest →
    (∀ i, decode c = .legal i → i ≠ .chkplat → i ≠ .apply →
      ∃ t, completesIn 0 s t ∧ t.host = rest ∧ t.draws = s.draws ∧ t.history = s.history) ∧
    (decode c = .legal .chkplat → 1 ≤ s.draws.length →
      ∃ t waits, waits ≤ 1 ∧ completesIn waits s t ∧ t.host = rest ∧ t.draws = s.draws.drop waits ∧
        t.history.length = s.history.length + waits) ∧
    (decode c = .legal .apply → 1 + 3 * s.cfg.maskWidth ≤ s.draws.length →
      ∃ t waits, waits ≤ 1 + 3 * s.cfg.maskWidth ∧ completesIn waits s t ∧ t.host = rest ∧
        t.draws = s.draws.drop waits ∧ t.history.length = s.history.length + waits)

/-! ### The whole machine -/

/-- Every step keeps the invariant of the block (R22, R23, R26, R27, R31, R35, R66, R225, R226, R246, R247). -/
def Obligations.EveryStepKeepsTheInvariant : Prop :=
  ∀ s t : State, s.Inv → step s = .next t → t.Inv

/-- The invariant holds after reset. The environment and the configuration State.reset carries are the model's choice and the defaults
(assumptions 3, 5). -/
def Obligations.ResetSatisfiesTheInvariant : Prop := State.reset.Inv

/-- Under the invariant a step never faults and is never refused: every error is a status, and the machine goes on (R280). -/
def Obligations.InvariantStatesAlwaysStep : Prop :=
  ∀ s : State, s.Inv → ∃ t, step s = .next t

/-- R27: STATUS changes only when a command completes (a reset excepted). -/
def Obligations.StatusChangesOnlyAtCompletion : Prop :=
  ∀ s t : State, (∀ rest, s.host ≠ .reset :: rest) → step s = .next t → t.status ≠ s.status →
    t.busy = false ∧ (s.busy = true ∨ ∃ c rest, s.host = .command c :: rest)

/-- R34, R281, R29: a command that ends at once with an error leaves the index, the raw value, the guard, the results, the
history, the environment and the inputs; only CONSTRUCT touches `slot.valid`. -/
def Obligations.ErrorsArePrecise : Prop :=
  ∀ (i : Instr) (s t : State), exec i s = .next t → t.busy = false → t.status ≠ 0x00#8 →
    t = { s with status := t.status, err := t.err, busy := false, seq := { s.seq with phase := .idle }, slot := t.slot } ∧
    t.slot.index = s.slot.index ∧ t.slot.raw = s.slot.raw ∧
    (t.slot.valid = s.slot.valid ∨ (∃ index raw, i = .construct index raw) ∧ t.slot.valid = false)

/-- R222: every command but CHKPLAT and APPLY does the same whatever the guard holds, leaves it, and sends no request. -/
def Obligations.GuardGatesOnlyMsrAccess : Prop :=
  ∀ (i : Instr) (s t : State) (g : BitVec 2), i ≠ .chkplat → i ≠ .apply → exec i s = .next t →
    t.guard = s.guard ∧ t.history = s.history ∧ t.busy = false ∧ exec i { s with guard := g } = .next { t with guard := g }

/-- R121, R43 (I11): what an emptied slot still holds is unobservable: two machines that differ only there show the host the
same registers and do the same I/O, for ever. -/
def Obligations.StaleSlotIsUnobservable : Prop :=
  ∀ (n : Nat) (s t : State) (index : BitVec 3) (raw : Word), s.slot.valid = false → runsTo n s t →
    ∃ u, runsTo n { s with slot := ⟨false, index, raw⟩ } u ∧ u.hostView = t.hostView ∧ u.history = t.history ∧
      u.env = t.env ∧ u.guard = t.guard ∧ u.slot.valid = t.slot.valid ∧
      (t.slot.valid = true → u.slot = t.slot)

/-- R316: a run in which the host never issues APPLY sends no MSR request, and at most one PLAT request. -/
def Obligations.DryRunSendsNoMsrRequest : Prop :=
  ∀ (n : Nat) (s t : State), s.busy = false → s.history = [] → dryRun s.host = true → runsTo n s t →
    t.history = [] ∨ ∃ b, t.history = [.plat b]

/-- R68: the reference environment is one of the free collaborators: every run under it is, for the block and the history, a
run under some draws of the free collaborator. -/
def Obligations.ReferenceRunsAreFreeRuns : Prop :=
  ∀ (n : Nat) (s t : State), s.env.reading = .reference → runsTo n s t →
    ∃ (ds : List Draw) (u : State), ds.length = s.draws.length ∧
      runsTo n { s with env := { s.env with reading := .free }, draws := ds } u ∧
      u.hostView = t.hostView ∧ u.slot = t.slot ∧ u.guard = t.guard ∧ u.seq = t.seq ∧ u.history = t.history ∧
      u.host = t.host ∧ u.cfg = t.cfg
end

