-- ==== Sys2Proof/Laws/State.lean ====
section
/-! SUPPORT. One lemma per field of State per named update, each true by unfolding the update once; later proofs cite them
through simp and never unfold a record update. -/

namespace Sys2Proof.Machine

/-! ### `clearErr` -/

@[simp] theorem State.clearErr_slot (s : State) :
    (s.clearErr).slot = s.slot := rfl
@[simp] theorem State.clearErr_guard (s : State) :
    (s.clearErr).guard = s.guard := rfl
@[simp] theorem State.clearErr_busy (s : State) :
    (s.clearErr).busy = s.busy := rfl
@[simp] theorem State.clearErr_seq (s : State) :
    (s.clearErr).seq = s.seq := rfl
@[simp] theorem State.clearErr_status (s : State) :
    (s.clearErr).status = s.status := rfl
@[simp] theorem State.clearErr_err (s : State) :
    (s.clearErr).err = ErrInfo.zero := rfl
@[simp] theorem State.clearErr_res (s : State) :
    (s.clearErr).res = s.res := rfl
@[simp] theorem State.clearErr_history (s : State) :
    (s.clearErr).history = s.history := rfl
@[simp] theorem State.clearErr_cfg (s : State) :
    (s.clearErr).cfg = s.cfg := rfl
@[simp] theorem State.clearErr_env (s : State) :
    (s.clearErr).env = s.env := rfl
@[simp] theorem State.clearErr_host (s : State) :
    (s.clearErr).host = s.host := rfl
@[simp] theorem State.clearErr_draws (s : State) :
    (s.clearErr).draws = s.draws := rfl

/-! ### `fillSlot` -/

@[simp] theorem State.fillSlot_slot (s : State) (index : BitVec 3) (raw : Word) :
    (s.fillSlot index raw).slot = ⟨true, index, raw⟩ := rfl
@[simp] theorem State.fillSlot_guard (s : State) (index : BitVec 3) (raw : Word) :
    (s.fillSlot index raw).guard = s.guard := rfl
@[simp] theorem State.fillSlot_busy (s : State) (index : BitVec 3) (raw : Word) :
    (s.fillSlot index raw).busy = s.busy := rfl
@[simp] theorem State.fillSlot_seq (s : State) (index : BitVec 3) (raw : Word) :
    (s.fillSlot index raw).seq = s.seq := rfl
@[simp] theorem State.fillSlot_status (s : State) (index : BitVec 3) (raw : Word) :
    (s.fillSlot index raw).status = s.status := rfl
@[simp] theorem State.fillSlot_err (s : State) (index : BitVec 3) (raw : Word) :
    (s.fillSlot index raw).err = s.err := rfl
@[simp] theorem State.fillSlot_res (s : State) (index : BitVec 3) (raw : Word) :
    (s.fillSlot index raw).res = s.res := rfl
@[simp] theorem State.fillSlot_history (s : State) (index : BitVec 3) (raw : Word) :
    (s.fillSlot index raw).history = s.history := rfl
@[simp] theorem State.fillSlot_cfg (s : State) (index : BitVec 3) (raw : Word) :
    (s.fillSlot index raw).cfg = s.cfg := rfl
@[simp] theorem State.fillSlot_env (s : State) (index : BitVec 3) (raw : Word) :
    (s.fillSlot index raw).env = s.env := rfl
@[simp] theorem State.fillSlot_host (s : State) (index : BitVec 3) (raw : Word) :
    (s.fillSlot index raw).host = s.host := rfl
@[simp] theorem State.fillSlot_draws (s : State) (index : BitVec 3) (raw : Word) :
    (s.fillSlot index raw).draws = s.draws := rfl

/-! ### `emptySlot` -/

@[simp] theorem State.emptySlot_slot (s : State) :
    (s.emptySlot).slot = { s.slot with valid := false } := rfl
@[simp] theorem State.emptySlot_guard (s : State) :
    (s.emptySlot).guard = s.guard := rfl
@[simp] theorem State.emptySlot_busy (s : State) :
    (s.emptySlot).busy = s.busy := rfl
@[simp] theorem State.emptySlot_seq (s : State) :
    (s.emptySlot).seq = s.seq := rfl
@[simp] theorem State.emptySlot_status (s : State) :
    (s.emptySlot).status = s.status := rfl
@[simp] theorem State.emptySlot_err (s : State) :
    (s.emptySlot).err = s.err := rfl
@[simp] theorem State.emptySlot_res (s : State) :
    (s.emptySlot).res = s.res := rfl
@[simp] theorem State.emptySlot_history (s : State) :
    (s.emptySlot).history = s.history := rfl
@[simp] theorem State.emptySlot_cfg (s : State) :
    (s.emptySlot).cfg = s.cfg := rfl
@[simp] theorem State.emptySlot_env (s : State) :
    (s.emptySlot).env = s.env := rfl
@[simp] theorem State.emptySlot_host (s : State) :
    (s.emptySlot).host = s.host := rfl
@[simp] theorem State.emptySlot_draws (s : State) :
    (s.emptySlot).draws = s.draws := rfl

/-! ### `setRaw` -/

@[simp] theorem State.setRaw_slot (s : State) (raw : Word) :
    (s.setRaw raw).slot = { s.slot with raw := raw } := rfl
@[simp] theorem State.setRaw_guard (s : State) (raw : Word) :
    (s.setRaw raw).guard = s.guard := rfl
@[simp] theorem State.setRaw_busy (s : State) (raw : Word) :
    (s.setRaw raw).busy = s.busy := rfl
@[simp] theorem State.setRaw_seq (s : State) (raw : Word) :
    (s.setRaw raw).seq = s.seq := rfl
@[simp] theorem State.setRaw_status (s : State) (raw : Word) :
    (s.setRaw raw).status = s.status := rfl
@[simp] theorem State.setRaw_err (s : State) (raw : Word) :
    (s.setRaw raw).err = s.err := rfl
@[simp] theorem State.setRaw_res (s : State) (raw : Word) :
    (s.setRaw raw).res = s.res := rfl
@[simp] theorem State.setRaw_history (s : State) (raw : Word) :
    (s.setRaw raw).history = s.history := rfl
@[simp] theorem State.setRaw_cfg (s : State) (raw : Word) :
    (s.setRaw raw).cfg = s.cfg := rfl
@[simp] theorem State.setRaw_env (s : State) (raw : Word) :
    (s.setRaw raw).env = s.env := rfl
@[simp] theorem State.setRaw_host (s : State) (raw : Word) :
    (s.setRaw raw).host = s.host := rfl
@[simp] theorem State.setRaw_draws (s : State) (raw : Word) :
    (s.setRaw raw).draws = s.draws := rfl

/-! ### `setGuard` -/

@[simp] theorem State.setGuard_slot (s : State) (g : BitVec 2) :
    (s.setGuard g).slot = s.slot := rfl
@[simp] theorem State.setGuard_guard (s : State) (g : BitVec 2) :
    (s.setGuard g).guard = g := rfl
@[simp] theorem State.setGuard_busy (s : State) (g : BitVec 2) :
    (s.setGuard g).busy = s.busy := rfl
@[simp] theorem State.setGuard_seq (s : State) (g : BitVec 2) :
    (s.setGuard g).seq = s.seq := rfl
@[simp] theorem State.setGuard_status (s : State) (g : BitVec 2) :
    (s.setGuard g).status = s.status := rfl
@[simp] theorem State.setGuard_err (s : State) (g : BitVec 2) :
    (s.setGuard g).err = s.err := rfl
@[simp] theorem State.setGuard_res (s : State) (g : BitVec 2) :
    (s.setGuard g).res = s.res := rfl
@[simp] theorem State.setGuard_history (s : State) (g : BitVec 2) :
    (s.setGuard g).history = s.history := rfl
@[simp] theorem State.setGuard_cfg (s : State) (g : BitVec 2) :
    (s.setGuard g).cfg = s.cfg := rfl
@[simp] theorem State.setGuard_env (s : State) (g : BitVec 2) :
    (s.setGuard g).env = s.env := rfl
@[simp] theorem State.setGuard_host (s : State) (g : BitVec 2) :
    (s.setGuard g).host = s.host := rfl
@[simp] theorem State.setGuard_draws (s : State) (g : BitVec 2) :
    (s.setGuard g).draws = s.draws := rfl

/-! ### `setRes0` -/

@[simp] theorem State.setRes0_slot (s : State) (v : Word) :
    (s.setRes0 v).slot = s.slot := rfl
@[simp] theorem State.setRes0_guard (s : State) (v : Word) :
    (s.setRes0 v).guard = s.guard := rfl
@[simp] theorem State.setRes0_busy (s : State) (v : Word) :
    (s.setRes0 v).busy = s.busy := rfl
@[simp] theorem State.setRes0_seq (s : State) (v : Word) :
    (s.setRes0 v).seq = s.seq := rfl
@[simp] theorem State.setRes0_status (s : State) (v : Word) :
    (s.setRes0 v).status = s.status := rfl
@[simp] theorem State.setRes0_err (s : State) (v : Word) :
    (s.setRes0 v).err = s.err := rfl
@[simp] theorem State.setRes0_res (s : State) (v : Word) :
    (s.setRes0 v).res = { s.res with res0 := v } := rfl
@[simp] theorem State.setRes0_history (s : State) (v : Word) :
    (s.setRes0 v).history = s.history := rfl
@[simp] theorem State.setRes0_cfg (s : State) (v : Word) :
    (s.setRes0 v).cfg = s.cfg := rfl
@[simp] theorem State.setRes0_env (s : State) (v : Word) :
    (s.setRes0 v).env = s.env := rfl
@[simp] theorem State.setRes0_host (s : State) (v : Word) :
    (s.setRes0 v).host = s.host := rfl
@[simp] theorem State.setRes0_draws (s : State) (v : Word) :
    (s.setRes0 v).draws = s.draws := rfl

/-! ### `setRes1` -/

@[simp] theorem State.setRes1_slot (s : State) (v : Word) :
    (s.setRes1 v).slot = s.slot := rfl
@[simp] theorem State.setRes1_guard (s : State) (v : Word) :
    (s.setRes1 v).guard = s.guard := rfl
@[simp] theorem State.setRes1_busy (s : State) (v : Word) :
    (s.setRes1 v).busy = s.busy := rfl
@[simp] theorem State.setRes1_seq (s : State) (v : Word) :
    (s.setRes1 v).seq = s.seq := rfl
@[simp] theorem State.setRes1_status (s : State) (v : Word) :
    (s.setRes1 v).status = s.status := rfl
@[simp] theorem State.setRes1_err (s : State) (v : Word) :
    (s.setRes1 v).err = s.err := rfl
@[simp] theorem State.setRes1_res (s : State) (v : Word) :
    (s.setRes1 v).res = { s.res with res1 := v } := rfl
@[simp] theorem State.setRes1_history (s : State) (v : Word) :
    (s.setRes1 v).history = s.history := rfl
@[simp] theorem State.setRes1_cfg (s : State) (v : Word) :
    (s.setRes1 v).cfg = s.cfg := rfl
@[simp] theorem State.setRes1_env (s : State) (v : Word) :
    (s.setRes1 v).env = s.env := rfl
@[simp] theorem State.setRes1_host (s : State) (v : Word) :
    (s.setRes1 v).host = s.host := rfl
@[simp] theorem State.setRes1_draws (s : State) (v : Word) :
    (s.setRes1 v).draws = s.draws := rfl

/-! ### `setResults` -/

@[simp] theorem State.setResults_slot (s : State) (r : Results) :
    (s.setResults r).slot = s.slot := rfl
@[simp] theorem State.setResults_guard (s : State) (r : Results) :
    (s.setResults r).guard = s.guard := rfl
@[simp] theorem State.setResults_busy (s : State) (r : Results) :
    (s.setResults r).busy = s.busy := rfl
@[simp] theorem State.setResults_seq (s : State) (r : Results) :
    (s.setResults r).seq = s.seq := rfl
@[simp] theorem State.setResults_status (s : State) (r : Results) :
    (s.setResults r).status = s.status := rfl
@[simp] theorem State.setResults_err (s : State) (r : Results) :
    (s.setResults r).err = s.err := rfl
@[simp] theorem State.setResults_res (s : State) (r : Results) :
    (s.setResults r).res = r := rfl
@[simp] theorem State.setResults_history (s : State) (r : Results) :
    (s.setResults r).history = s.history := rfl
@[simp] theorem State.setResults_cfg (s : State) (r : Results) :
    (s.setResults r).cfg = s.cfg := rfl
@[simp] theorem State.setResults_env (s : State) (r : Results) :
    (s.setResults r).env = s.env := rfl
@[simp] theorem State.setResults_host (s : State) (r : Results) :
    (s.setResults r).host = s.host := rfl
@[simp] theorem State.setResults_draws (s : State) (r : Results) :
    (s.setResults r).draws = s.draws := rfl

/-! ### `await` -/

@[simp] theorem State.await_slot (s : State) (q : Seq) :
    (s.await q).slot = s.slot := rfl
@[simp] theorem State.await_guard (s : State) (q : Seq) :
    (s.await q).guard = s.guard := rfl
@[simp] theorem State.await_busy (s : State) (q : Seq) :
    (s.await q).busy = true := rfl
@[simp] theorem State.await_seq (s : State) (q : Seq) :
    (s.await q).seq = q := rfl
@[simp] theorem State.await_status (s : State) (q : Seq) :
    (s.await q).status = s.status := rfl
@[simp] theorem State.await_err (s : State) (q : Seq) :
    (s.await q).err = s.err := rfl
@[simp] theorem State.await_res (s : State) (q : Seq) :
    (s.await q).res = s.res := rfl
@[simp] theorem State.await_history (s : State) (q : Seq) :
    (s.await q).history = s.history := rfl
@[simp] theorem State.await_cfg (s : State) (q : Seq) :
    (s.await q).cfg = s.cfg := rfl
@[simp] theorem State.await_env (s : State) (q : Seq) :
    (s.await q).env = s.env := rfl
@[simp] theorem State.await_host (s : State) (q : Seq) :
    (s.await q).host = s.host := rfl
@[simp] theorem State.await_draws (s : State) (q : Seq) :
    (s.await q).draws = s.draws := rfl

/-! ### `setSeq` -/

@[simp] theorem State.setSeq_slot (s : State) (q : Seq) :
    (s.setSeq q).slot = s.slot := rfl
@[simp] theorem State.setSeq_guard (s : State) (q : Seq) :
    (s.setSeq q).guard = s.guard := rfl
@[simp] theorem State.setSeq_busy (s : State) (q : Seq) :
    (s.setSeq q).busy = s.busy := rfl
@[simp] theorem State.setSeq_seq (s : State) (q : Seq) :
    (s.setSeq q).seq = q := rfl
@[simp] theorem State.setSeq_status (s : State) (q : Seq) :
    (s.setSeq q).status = s.status := rfl
@[simp] theorem State.setSeq_err (s : State) (q : Seq) :
    (s.setSeq q).err = s.err := rfl
@[simp] theorem State.setSeq_res (s : State) (q : Seq) :
    (s.setSeq q).res = s.res := rfl
@[simp] theorem State.setSeq_history (s : State) (q : Seq) :
    (s.setSeq q).history = s.history := rfl
@[simp] theorem State.setSeq_cfg (s : State) (q : Seq) :
    (s.setSeq q).cfg = s.cfg := rfl
@[simp] theorem State.setSeq_env (s : State) (q : Seq) :
    (s.setSeq q).env = s.env := rfl
@[simp] theorem State.setSeq_host (s : State) (q : Seq) :
    (s.setSeq q).host = s.host := rfl
@[simp] theorem State.setSeq_draws (s : State) (q : Seq) :
    (s.setSeq q).draws = s.draws := rfl

/-! ### `record` -/

@[simp] theorem State.record_slot (s : State) (e : Event) :
    (s.record e).slot = s.slot := rfl
@[simp] theorem State.record_guard (s : State) (e : Event) :
    (s.record e).guard = s.guard := rfl
@[simp] theorem State.record_busy (s : State) (e : Event) :
    (s.record e).busy = s.busy := rfl
@[simp] theorem State.record_seq (s : State) (e : Event) :
    (s.record e).seq = s.seq := rfl
@[simp] theorem State.record_status (s : State) (e : Event) :
    (s.record e).status = s.status := rfl
@[simp] theorem State.record_err (s : State) (e : Event) :
    (s.record e).err = s.err := rfl
@[simp] theorem State.record_res (s : State) (e : Event) :
    (s.record e).res = s.res := rfl
@[simp] theorem State.record_history (s : State) (e : Event) :
    (s.record e).history = s.history ++ [e] := rfl
@[simp] theorem State.record_cfg (s : State) (e : Event) :
    (s.record e).cfg = s.cfg := rfl
@[simp] theorem State.record_env (s : State) (e : Event) :
    (s.record e).env = s.env := rfl
@[simp] theorem State.record_host (s : State) (e : Event) :
    (s.record e).host = s.host := rfl
@[simp] theorem State.record_draws (s : State) (e : Event) :
    (s.record e).draws = s.draws := rfl

/-! ### `complete` -/

@[simp] theorem State.complete_slot (s : State) :
    (s.complete).slot = s.slot := rfl
@[simp] theorem State.complete_guard (s : State) :
    (s.complete).guard = s.guard := rfl
@[simp] theorem State.complete_busy (s : State) :
    (s.complete).busy = false := rfl
@[simp] theorem State.complete_seq (s : State) :
    (s.complete).seq = { s.seq with phase := .idle } := rfl
@[simp] theorem State.complete_status (s : State) :
    (s.complete).status = statusCode .ok := rfl
@[simp] theorem State.complete_err (s : State) :
    (s.complete).err = s.err := rfl
@[simp] theorem State.complete_res (s : State) :
    (s.complete).res = s.res := rfl
@[simp] theorem State.complete_history (s : State) :
    (s.complete).history = s.history := rfl
@[simp] theorem State.complete_cfg (s : State) :
    (s.complete).cfg = s.cfg := rfl
@[simp] theorem State.complete_env (s : State) :
    (s.complete).env = s.env := rfl
@[simp] theorem State.complete_host (s : State) :
    (s.complete).host = s.host := rfl
@[simp] theorem State.complete_draws (s : State) :
    (s.complete).draws = s.draws := rfl

/-! ### `raise` -/

@[simp] theorem State.raise_slot (s : State) (st : Status) (info : ErrInfo) :
    (s.raise st info).slot = s.slot := rfl
@[simp] theorem State.raise_guard (s : State) (st : Status) (info : ErrInfo) :
    (s.raise st info).guard = s.guard := rfl
@[simp] theorem State.raise_busy (s : State) (st : Status) (info : ErrInfo) :
    (s.raise st info).busy = false := rfl
@[simp] theorem State.raise_seq (s : State) (st : Status) (info : ErrInfo) :
    (s.raise st info).seq = { s.seq with phase := .idle } := rfl
@[simp] theorem State.raise_status (s : State) (st : Status) (info : ErrInfo) :
    (s.raise st info).status = statusCode st := rfl
@[simp] theorem State.raise_err (s : State) (st : Status) (info : ErrInfo) :
    (s.raise st info).err = info := rfl
@[simp] theorem State.raise_res (s : State) (st : Status) (info : ErrInfo) :
    (s.raise st info).res = s.res := rfl
@[simp] theorem State.raise_history (s : State) (st : Status) (info : ErrInfo) :
    (s.raise st info).history = s.history := rfl
@[simp] theorem State.raise_cfg (s : State) (st : Status) (info : ErrInfo) :
    (s.raise st info).cfg = s.cfg := rfl
@[simp] theorem State.raise_env (s : State) (st : Status) (info : ErrInfo) :
    (s.raise st info).env = s.env := rfl
@[simp] theorem State.raise_host (s : State) (st : Status) (info : ErrInfo) :
    (s.raise st info).host = s.host := rfl
@[simp] theorem State.raise_draws (s : State) (st : Status) (info : ErrInfo) :
    (s.raise st info).draws = s.draws := rfl

/-! ### `outsideWrite` -/

@[simp] theorem State.outsideWrite_slot (s : State) (k : Nat) (a : MsrAddr) (v : Word) :
    (s.outsideWrite k a v).slot = s.slot := rfl
@[simp] theorem State.outsideWrite_guard (s : State) (k : Nat) (a : MsrAddr) (v : Word) :
    (s.outsideWrite k a v).guard = s.guard := rfl
@[simp] theorem State.outsideWrite_busy (s : State) (k : Nat) (a : MsrAddr) (v : Word) :
    (s.outsideWrite k a v).busy = s.busy := rfl
@[simp] theorem State.outsideWrite_seq (s : State) (k : Nat) (a : MsrAddr) (v : Word) :
    (s.outsideWrite k a v).seq = s.seq := rfl
@[simp] theorem State.outsideWrite_status (s : State) (k : Nat) (a : MsrAddr) (v : Word) :
    (s.outsideWrite k a v).status = s.status := rfl
@[simp] theorem State.outsideWrite_err (s : State) (k : Nat) (a : MsrAddr) (v : Word) :
    (s.outsideWrite k a v).err = s.err := rfl
@[simp] theorem State.outsideWrite_res (s : State) (k : Nat) (a : MsrAddr) (v : Word) :
    (s.outsideWrite k a v).res = s.res := rfl
@[simp] theorem State.outsideWrite_history (s : State) (k : Nat) (a : MsrAddr) (v : Word) :
    (s.outsideWrite k a v).history = s.history := rfl
@[simp] theorem State.outsideWrite_cfg (s : State) (k : Nat) (a : MsrAddr) (v : Word) :
    (s.outsideWrite k a v).cfg = s.cfg := rfl
@[simp] theorem State.outsideWrite_env (s : State) (k : Nat) (a : MsrAddr) (v : Word) :
    (s.outsideWrite k a v).env = { s.env with msr := writeMsr s.env.msr k a v } := rfl
@[simp] theorem State.outsideWrite_host (s : State) (k : Nat) (a : MsrAddr) (v : Word) :
    (s.outsideWrite k a v).host = s.host := rfl
@[simp] theorem State.outsideWrite_draws (s : State) (k : Nat) (a : MsrAddr) (v : Word) :
    (s.outsideWrite k a v).draws = s.draws := rfl

/-! ### `resetBlock` -/

@[simp] theorem State.resetBlock_slot (s : State) :
    (s.resetBlock).slot = State.reset.slot := rfl
@[simp] theorem State.resetBlock_guard (s : State) :
    (s.resetBlock).guard = State.reset.guard := rfl
@[simp] theorem State.resetBlock_busy (s : State) :
    (s.resetBlock).busy = false := rfl
@[simp] theorem State.resetBlock_seq (s : State) :
    (s.resetBlock).seq = State.reset.seq := rfl
@[simp] theorem State.resetBlock_status (s : State) :
    (s.resetBlock).status = State.reset.status := rfl
@[simp] theorem State.resetBlock_err (s : State) :
    (s.resetBlock).err = ErrInfo.zero := rfl
@[simp] theorem State.resetBlock_res (s : State) :
    (s.resetBlock).res = Results.zero := rfl
@[simp] theorem State.resetBlock_history (s : State) :
    (s.resetBlock).history = [] := rfl
@[simp] theorem State.resetBlock_cfg (s : State) :
    (s.resetBlock).cfg = s.cfg := rfl
@[simp] theorem State.resetBlock_env (s : State) :
    (s.resetBlock).env = s.env := rfl
@[simp] theorem State.resetBlock_host (s : State) :
    (s.resetBlock).host = s.host := rfl
@[simp] theorem State.resetBlock_draws (s : State) :
    (s.resetBlock).draws = s.draws := rfl

end Sys2Proof.Machine
end

