-- ==== Sys2Proof/Laws/Exec.lean ====
section
/-! SUPPORT. What the shared operations of the one-step commands can do, said once each, and what no command touches. -/

namespace Sys2Proof.Machine

/-- `deliverFromSlot` either delivers `RES0` or raises `NoRegister`. -/
theorem deliverFromSlot_cases (f : Word → Word) (s : State) :
    (s.slot.valid = true ∧ deliverFromSlot f s = (s.clearErr.setRes0 (f s.slot.raw)).complete) ∨
    (s.slot.valid = false ∧ deliverFromSlot f s = s.clearErr.raise .noRegister ErrInfo.zero) := by
  cases h : s.slot.valid with
  | true => exact .inl ⟨rfl, by simp [deliverFromSlot, h]⟩
  | false => exact .inr ⟨rfl, by simp [deliverFromSlot, h]⟩

/-- A setter raises `NoRegister`, reports the bound it violates, or commits the operand. -/
theorem updateField_cases (f : Field) (v : Word) (s : State) :
    (s.slot.valid = false ∧ updateField f v s = s.clearErr.raise .noRegister ErrInfo.zero) ∨
    (s.slot.valid = true ∧ (v.toNat < fieldMin s.cfg f ∨ fieldMax s.cfg f < v.toNat) ∧
      ∃ bound limit, bound ≠ 3#2 ∧ updateField f v s = s.clearErr.raise .fieldOutOfRange
        { ErrInfo.zero with field := fieldCode f, bound := bound, limit := limit, value := v }) ∨
    (s.slot.valid = true ∧ fieldMin s.cfg f ≤ v.toNat ∧ v.toNat ≤ fieldMax s.cfg f ∧
      updateField f v s = (s.clearErr.setRaw (setBits s.slot.raw (fieldLo f) (fieldWidth f) v)).complete) := by
  cases h : s.slot.valid with
  | false => exact .inl ⟨rfl, by simp [updateField, h]⟩
  | true =>
    by_cases h1 : v.toNat < fieldMin s.cfg f
    · exact .inr (.inl ⟨rfl, .inl h1, boundBelowMin, _, by decide, by simp [updateField, h, h1]; rfl⟩)
    · by_cases h2 : fieldMax s.cfg f < v.toNat
      · exact .inr (.inl ⟨rfl, .inr h2, boundAboveMax, _, by decide, by simp [updateField, h, h1, h2]; rfl⟩)
      · exact .inr (.inr ⟨rfl, by omega, by omega, by simp [updateField, h, h1, h2]⟩)

/-- A quotient is delivered whole or raises `DivideByZero`. -/
theorem deliverQuotient_cases (scale : Nat) (fid did : Word) (s : State) :
    (did = 0#64 ∧ deliverQuotient scale fid did s =
      s.raise .divideByZero { ErrInfo.zero with field := fieldCode .did }) ∨
    (did ≠ 0#64 ∧ deliverQuotient scale fid did s = ((s.setRes0 (scaledFid scale fid)).setRes1 did).complete) := by
  by_cases h : did = 0#64
  · exact .inl ⟨h, by simp [deliverQuotient, h]⟩
  · exact .inr ⟨h, by simp [deliverQuotient, h]⟩

/-- Every command answers a next state, and none touches the configuration, the environment, the inputs or the history. -/
theorem exec_frame (i : Instr) (s : State) :
    ∃ t, exec i s = .next t ∧ t.cfg = s.cfg ∧ t.env = s.env ∧ t.host = s.host ∧ t.draws = s.draws ∧
      t.history = s.history := by
  cases i <;> simp only [exec, execChkplat, execConstruct, execGetfid, execGetdid, execGetvid, execSetfid, execSetdid,
    execSetvid, execEncode, execRatio, execFreq, execVcore, execRatior, execFreqr, execVcorer, execDescribe, execAddrfor,
    execApply, deliverFromSlot, updateField, staticQuotient, slotQuotient, deliverQuotient, raiseDomain]
  all_goals repeat' split
  all_goals exact ⟨_, rfl, by simp⟩

/-- The outcomes of the one-step commands, as what they leave: an error, or a completion that wrote results or the slot. -/
inductive Ends (s : State) : State → Prop where
  | raised (st : Status) (info : ErrInfo) (hst : st ≠ .ok) (hb : info.bound ≠ 3#2) : Ends s (s.raise st info)
  | emptied (st : Status) (info : ErrInfo) (hst : st ≠ .ok) (hb : info.bound ≠ 3#2) : Ends s (s.emptySlot.raise st info)
  | results (r : Results) : Ends s (({ s with res := r }).clearErr.complete)
  | filled (index : BitVec 3) (raw : Word) (he : raw.getLsbD 63 = true) : Ends s ((s.fillSlot index raw).clearErr.complete)
  | updated (f : Field) (v : Word) (hv : s.slot.valid = true) (h1 : fieldMin s.cfg f ≤ v.toNat)
      (h2 : v.toNat ≤ fieldMax s.cfg f) :
      Ends s ((s.setRaw (setBits s.slot.raw (fieldLo f) (fieldWidth f) v)).clearErr.complete)

/-- What CHKPLAT and APPLY leave when they launch. -/
inductive Launches (s : State) : Instr → State → Prop where
  | chkplat (h1 : s.guard ≠ guardSupported) (h2 : s.guard ≠ guardUnsupported) :
      Launches s .chkplat (s.clearErr.await { s.seq with phase := .platWait })
  | apply (h1 : s.guard ≠ guardUnchecked) (h2 : s.guard ≠ guardUnsupported) (hv : s.slot.valid = true) :
      Launches s .apply (s.clearErr.await (launchSeq s.slot))

/-- Every command ends at once or launches. -/
theorem exec_cases {i : Instr} {s t : State} (h : exec i s = .next t) : Ends s t ∨ Launches s i t := by
  have raised : ∀ (st : Status) (info : ErrInfo), st ≠ .ok → info.bound ≠ 3#2 → Ends s (s.clearErr.raise st info) :=
    fun st info h1 h2 => Ends.raised (s := s) st info h1 h2
  have deliver : ∀ f : Word → Word, Ends s (deliverFromSlot f s) := by
    intro f
    rcases deliverFromSlot_cases f s with ⟨_, he⟩ | ⟨_, he⟩
    · rw [he]; exact Ends.results (s := s) { s.res with res0 := f s.slot.raw }
    · rw [he]; exact raised _ _ (by simp) (by decide)
  have quotient : ∀ scale fid did, Ends s (deliverQuotient scale fid did s.clearErr) := by
    intro scale fid did
    rcases deliverQuotient_cases scale fid did s.clearErr with ⟨_, he⟩ | ⟨_, he⟩
    · rw [he]; exact raised _ _ (by simp) (show (0#2 : BitVec 2) ≠ 3#2 by decide)
    · rw [he]; exact Ends.results (s := s) { s.res with res0 := scaledFid scale fid, res1 := did }
  have domain : ∀ f v, Ends s (raiseDomain f v s.clearErr) := fun f v =>
    raised _ _ (by simp) (show (0#2 : BitVec 2) ≠ 3#2 by decide)
  have static : ∀ scale fid did, Ends s (staticQuotient scale fid did s) := by
    intro scale fid did
    simp only [staticQuotient]
    split
    · exact domain _ _
    · split
      · exact domain _ _
      · exact quotient _ _ _
  have own : ∀ scale, Ends s (slotQuotient scale s) := by
    intro scale
    simp only [slotQuotient]
    split
    · exact quotient _ _ _
    · exact raised _ _ (by simp) (by decide)
  have setter : ∀ f v, Ends s (updateField f v s) := by
    intro f v
    rcases updateField_cases f v s with ⟨_, he⟩ | ⟨_, _, bound, limit, hb, he⟩ | ⟨hv, h1, h2, he⟩
    · rw [he]; exact raised _ _ (by simp) (by decide)
    · rw [he]; exact raised _ _ (by simp) hb
    · rw [he]; exact Ends.updated (s := s) f v hv h1 h2
  cases i with
  | chkplat =>
    simp only [exec, execChkplat] at h
    split at h
    · cases h; exact .inl (Ends.results (s := s) s.res)
    · split at h
      · cases h; exact .inl (raised _ _ (by simp) (by decide))
      · rename_i h1 h2
        cases h; exact .inr (.chkplat h1 h2)
  | construct index raw =>
    simp only [exec, execConstruct] at h
    split at h
    · cases h; exact .inl (Ends.emptied (s := s) _ _ (by simp) (show (0#2 : BitVec 2) ≠ 3#2 by decide))
    · split at h
      · cases h; exact .inl (Ends.emptied (s := s) _ _ (by simp) (show (0#2 : BitVec 2) ≠ 3#2 by decide))
      · rename_i _ he
        cases h; exact .inl (Ends.filled (s := s) _ raw (by simpa [enabledBit] using he))
  | getfid => cases h; exact .inl (deliver _)
  | getdid => cases h; exact .inl (deliver _)
  | getvid => cases h; exact .inl (deliver _)
  | setfid v => cases h; exact .inl (setter .fid v)
  | setdid v => cases h; exact .inl (setter .did v)
  | setvid v => cases h; exact .inl (setter .vid v)
  | encode => cases h; exact .inl (deliver _)
  | ratio fid did => cases h; exact .inl (static 2 fid did)
  | freq fid did => cases h; exact .inl (static 200 fid did)
  | vcore vid =>
    simp only [exec, execVcore] at h
    split at h
    · cases h; exact .inl (domain _ _)
    · cases h; exact .inl (Ends.results (s := s) { s.res with res0 := microvolts vid })
  | ratior => cases h; exact .inl (own 2)
  | freqr => cases h; exact .inl (own 200)
  | vcorer => cases h; exact .inl (deliver _)
  | describe =>
    simp only [exec, execDescribe] at h
    split at h
    · cases h; exact .inl (raised _ _ (by simp) (by decide))
    · split at h
      · cases h; exact .inl (raised _ _ (by simp) (show (0#2 : BitVec 2) ≠ 3#2 by decide))
      · cases h; exact .inl (Ends.results (s := s) (snapshot s.slot.raw))
  | addrfor index =>
    simp only [exec, execAddrfor] at h
    split at h
    · cases h; exact .inl (raised _ _ (by simp) (show (0#2 : BitVec 2) ≠ 3#2 by decide))
    · cases h; exact .inl (Ends.results (s := s) _)
  | apply =>
    simp only [exec, execApply] at h
    split at h
    · cases h; exact .inl (raised _ _ (by simp) (by decide))
    · split at h
      · cases h; exact .inl (raised _ _ (by simp) (by decide))
      · split at h
        · cases h; exact .inl (raised _ _ (by simp) (by decide))
        · rename_i h1 h2 h3
          cases h; exact .inr (.apply h1 h2 (by simpa using h3))

end Sys2Proof.Machine
end

