-- ==== Sys2Proof/Laws/Fields.lean ====
section
/-! SUPPORT. The laws of the read-modify-write primitive of spec/40_codec.md R130: which bits it writes and which it keeps. -/

namespace Sys2Proof.Machine

/-- What a well-formed configuration says of the bounds (spec/00_scope.md R10). -/
theorem wf_bounds {c : Config} (h : c.wf = true) :
    c.fidMin ≤ c.fidMax ∧ c.fidMax ≤ 0xFF ∧ c.didMin ≤ c.didMax ∧ c.didMax ≤ 0x3F ∧ c.vidMin ≤ c.vidMax ∧ c.vidMax ≤ 0xFF ∧
      1 ≤ c.didMin ∧ 1 ≤ c.maskWidth := by
  simp only [Config.wf, Bool.and_eq_true, decide_eq_true_eq] at h
  omega

/-- A bound of a well-formed configuration fits in its field. -/
theorem fieldMax_lt {c : Config} (h : c.wf = true) (f : Field) : fieldMax c f < 2 ^ fieldWidth f := by
  have hb := wf_bounds h
  cases f <;> simp only [fieldMax, fieldWidth] <;> omega

/-- Bit by bit: the field takes the value's bits, and every other bit stays. -/
theorem setBits_getLsbD (raw : Word) (f : Field) (v : Word) (hv : v.toNat < 2 ^ fieldWidth f) (b : Nat) (hb : b < 64) :
    (setBits raw (fieldLo f) (fieldWidth f) v).getLsbD b =
      if fieldLo f ≤ b ∧ b < fieldLo f + fieldWidth f then v.getLsbD (b - fieldLo f) else raw.getLsbD b := by
  have hm : ∀ b < 64, (BitVec.ofNat 64 ((2 ^ fieldWidth f - 1) <<< fieldLo f)).getLsbD b =
      decide (fieldLo f ≤ b ∧ b < fieldLo f + fieldWidth f) := by
    cases f <;> decide
  have hbig : ∀ j, fieldWidth f ≤ j → v.getLsbD j = false := fun j hj => by
    rw [BitVec.getLsbD]
    exact Nat.testBit_lt_two_pow (Nat.lt_of_lt_of_le hv (Nat.pow_le_pow_right (by decide) hj))
  simp only [setBits, BitVec.getLsbD_or, BitVec.getLsbD_and, BitVec.getLsbD_not, BitVec.getLsbD_shiftLeft, hm b hb, hb,
    decide_true, Bool.true_and]
  by_cases h1 : fieldLo f ≤ b
  · by_cases h2 : b < fieldLo f + fieldWidth f
    · have h3 : ¬ b < fieldLo f := by omega
      simp [h1, h2, h3]
    · have h3 : ¬ b < fieldLo f := by omega
      simp [h1, h2, h3, hbig (b - fieldLo f) (by omega)]
  · have h3 : b < fieldLo f := by omega
    simp [h1, h3]

/-- The updated field holds the value. -/
theorem setBits_own (raw : Word) (f : Field) (v : Word) (hv : v.toNat < 2 ^ fieldWidth f) :
    (setBits raw (fieldLo f) (fieldWidth f) v).toNat / 2 ^ fieldLo f % 2 ^ fieldWidth f = v.toNat := by
  apply Nat.eq_of_testBit_eq
  intro j
  simp only [Nat.testBit_mod_two_pow, Nat.testBit_div_two_pow]
  by_cases hj : j < fieldWidth f
  · have h64 : j + fieldLo f < 64 := by cases f <;> simp [fieldWidth, fieldLo] at * <;> omega
    have hbit := setBits_getLsbD raw f v hv (j + fieldLo f) h64
    simp only [BitVec.getLsbD] at hbit
    rw [hbit, if_pos (by omega)]
    simp [hj]
  · have hz := Nat.testBit_lt_two_pow
      (Nat.lt_of_lt_of_le hv (Nat.pow_le_pow_right (show 0 < 2 by decide) (show fieldWidth f ≤ j by omega)))
    simp [hj, hz]

/-- A range of bits that does not meet the field stays. -/
theorem setBits_apart (raw : Word) (f : Field) (v : Word) (hv : v.toNat < 2 ^ fieldWidth f) (lo width : Nat)
    (hd : lo + width ≤ fieldLo f ∨ fieldLo f + fieldWidth f ≤ lo) (h64 : lo + width ≤ 64) :
    (setBits raw (fieldLo f) (fieldWidth f) v).toNat / 2 ^ lo % 2 ^ width = raw.toNat / 2 ^ lo % 2 ^ width := by
  apply Nat.eq_of_testBit_eq
  intro j
  simp only [Nat.testBit_mod_two_pow, Nat.testBit_div_two_pow]
  by_cases hj : j < width
  · have hbit := setBits_getLsbD raw f v hv (j + lo) (by omega)
    simp only [BitVec.getLsbD] at hbit
    rw [hbit, if_neg (by omega)]
  · simp [hj]

end Sys2Proof.Machine
end

