-- ==== Sys2Proof/Laws/Memory.lean ====
section
/-! SUPPORT. The laws of the MSR space: what a write changes and leaves, and that every operation keeps the canonical
form. -/

namespace Sys2Proof.Machine

theorem wfFrom_mono {lo lo' : Nat} {m : Memory} (h : wfFrom lo m = true) (hle : lo' ≤ lo) : wfFrom lo' m = true := by
  cases m with
  | nil => rfl
  | cons p rest =>
    obtain ⟨b, v⟩ := p
    simp only [wfFrom, Bool.and_eq_true, decide_eq_true_eq] at h ⊢
    exact ⟨⟨by omega, h.1.2⟩, h.2⟩

/-- Below its first cell a space in canonical form lists nothing. -/
theorem readCell_below {lo c : Nat} {m : Memory} (h : wfFrom lo m = true) (hc : c < lo) : readCell m c = unlistedCell := by
  induction m generalizing lo with
  | nil => rfl
  | cons p rest ih =>
    obtain ⟨b, v⟩ := p
    simp only [wfFrom, Bool.and_eq_true, decide_eq_true_eq] at h
    have hne : c ≠ b := by omega
    simp only [readCell, hne, if_false]
    exact ih h.2 (by omega)

theorem wfFrom_writeCell {lo c : Nat} {m : Memory} (v : Word) (h : wfFrom lo m = true) (hc : lo ≤ c) :
    wfFrom lo (writeCell m c v) = true := by
  induction m generalizing lo with
  | nil => by_cases hv : v = unlistedCell <;> simp [writeCell, wfFrom, hv, hc]
  | cons p rest ih =>
    obtain ⟨b, w⟩ := p
    simp only [wfFrom, Bool.and_eq_true, decide_eq_true_eq] at h
    obtain ⟨⟨hb, hw⟩, hrest⟩ := h
    simp only [writeCell]
    split
    · split
      · simp [wfFrom, hb, hw, hrest]
      · rename_i hlt hv
        have hb' : c + 1 ≤ b := hlt
        simp [wfFrom, hc, hv, hb', hw, hrest]
    · split
      · rename_i hnlt heq
        subst heq
        split
        · exact wfFrom_mono hrest (by omega)
        · rename_i hv
          simp [wfFrom, hb, hv, hrest]
      · rename_i hnlt hne
        simp only [wfFrom, Bool.and_eq_true, decide_eq_true_eq]
        exact ⟨⟨hb, hw⟩, ih hrest (by omega)⟩

theorem readCell_writeCell_same {lo : Nat} {m : Memory} (c : Nat) (v : Word) (h : wfFrom lo m = true) :
    readCell (writeCell m c v) c = v := by
  induction m generalizing lo with
  | nil => by_cases hv : v = unlistedCell <;> simp [writeCell, readCell, hv]
  | cons p rest ih =>
    obtain ⟨b, w⟩ := p
    have h' := h
    simp only [wfFrom, Bool.and_eq_true, decide_eq_true_eq] at h
    obtain ⟨⟨hb, hw⟩, hrest⟩ := h
    simp only [writeCell]
    split
    · rename_i hlt
      split
      · rename_i hv
        have hne : c ≠ b := by omega
        simp only [readCell, hne, if_false]
        rw [hv]
        exact readCell_below hrest (by omega)
      · simp [readCell]
    · split
      · rename_i hnlt heq
        subst heq
        split
        · rename_i hv
          rw [hv]
          exact readCell_below hrest (by omega)
        · simp [readCell]
      · rename_i hnlt hne
        simp only [readCell, hne, if_false]
        exact ih hrest

theorem readCell_writeCell_other {lo : Nat} {m : Memory} {c c' : Nat} (v : Word) (h : wfFrom lo m = true) (hne : c' ≠ c) :
    readCell (writeCell m c v) c' = readCell m c' := by
  induction m generalizing lo with
  | nil => by_cases hv : v = unlistedCell <;> simp [writeCell, readCell, hv, hne]
  | cons p rest ih =>
    obtain ⟨b, w⟩ := p
    simp only [wfFrom, Bool.and_eq_true, decide_eq_true_eq] at h
    obtain ⟨⟨hb, hw⟩, hrest⟩ := h
    simp only [writeCell]
    split
    · split
      · rfl
      · simp [readCell, hne]
    · split
      · rename_i hnlt heq
        subst heq
        split
        · simp [readCell, hne]
        · simp [readCell, hne]
      · by_cases hcb : c' = b
        · simp [readCell, hcb]
        · simp only [readCell, hcb, if_false]
          exact ih hrest

/-- A cell number names one processor and one address. -/
theorem cellOf_inj {k k' : Nat} {a a' : MsrAddr} (h : cellOf k a = cellOf k' a') : k = k' ∧ a = a' := by
  have ha := a.isLt
  have ha' := a'.isLt
  simp only [cellOf] at h
  refine ⟨by omega, BitVec.eq_of_toNat_eq (by omega)⟩

theorem writeMsr_wf {m : Memory} (k : Nat) (a : MsrAddr) (v : Word) (h : Memory.wf m = true) :
    Memory.wf (writeMsr m k a v) = true :=
  wfFrom_writeCell v h (Nat.zero_le _)

theorem readMsr_writeMsr_same {m : Memory} (k : Nat) (a : MsrAddr) (v : Word) (h : Memory.wf m = true) :
    readMsr (writeMsr m k a v) k a = v :=
  readCell_writeCell_same _ v h

theorem readMsr_writeMsr_other {m : Memory} {k k' : Nat} {a a' : MsrAddr} (v : Word) (h : Memory.wf m = true)
    (hne : k' ≠ k ∨ a' ≠ a) : readMsr (writeMsr m k a v) k' a' = readMsr m k' a' := by
  apply readCell_writeCell_other v h
  intro hc
  obtain ⟨hk, ha⟩ := cellOf_inj hc
  cases hne with
  | inl h1 => exact h1 hk
  | inr h2 => exact h2 ha

theorem reset_msr_wf : Memory.wf State.reset.env.msr = true := rfl

end Sys2Proof.Machine
end

