-- ==== Sys2Proof/Laws/PerInstr.lean ====
section
/-! SUPPORT. Statements made per instruction, with one lemma per constructor. -/

namespace Sys2Proof.Laws

/-- The word the encoder writes for an instruction is legal (spec/30_encoding.md R98), and its reserved byte is 0. -/
def EncodesLegal.Statement (i : Instr) : Prop :=
  (encode i).legal = true ∧ rsvField (encode i).cmd = 0#8

theorem EncodesLegal.chkplat : EncodesLegal.Statement (.chkplat) := by
  constructor <;> simp [Sys2Proof.encode, opcodeOf, Command.legal, rsvField]

theorem EncodesLegal.construct (index raw : Word) : EncodesLegal.Statement (.construct index raw) := by
  constructor <;> simp [Sys2Proof.encode, opcodeOf, Command.legal, rsvField]

theorem EncodesLegal.getfid : EncodesLegal.Statement (.getfid) := by
  constructor <;> simp [Sys2Proof.encode, opcodeOf, Command.legal, rsvField]

theorem EncodesLegal.getdid : EncodesLegal.Statement (.getdid) := by
  constructor <;> simp [Sys2Proof.encode, opcodeOf, Command.legal, rsvField]

theorem EncodesLegal.getvid : EncodesLegal.Statement (.getvid) := by
  constructor <;> simp [Sys2Proof.encode, opcodeOf, Command.legal, rsvField]

theorem EncodesLegal.setfid (value : Word) : EncodesLegal.Statement (.setfid value) := by
  constructor <;> simp [Sys2Proof.encode, opcodeOf, Command.legal, rsvField]

theorem EncodesLegal.setdid (value : Word) : EncodesLegal.Statement (.setdid value) := by
  constructor <;> simp [Sys2Proof.encode, opcodeOf, Command.legal, rsvField]

theorem EncodesLegal.setvid (value : Word) : EncodesLegal.Statement (.setvid value) := by
  constructor <;> simp [Sys2Proof.encode, opcodeOf, Command.legal, rsvField]

theorem EncodesLegal.encode : EncodesLegal.Statement (.encode) := by
  constructor <;> simp [Sys2Proof.encode, opcodeOf, Command.legal, rsvField]

theorem EncodesLegal.ratio (fid did : Word) : EncodesLegal.Statement (.ratio fid did) := by
  constructor <;> simp [Sys2Proof.encode, opcodeOf, Command.legal, rsvField]

theorem EncodesLegal.freq (fid did : Word) : EncodesLegal.Statement (.freq fid did) := by
  constructor <;> simp [Sys2Proof.encode, opcodeOf, Command.legal, rsvField]

theorem EncodesLegal.vcore (vid : Word) : EncodesLegal.Statement (.vcore vid) := by
  constructor <;> simp [Sys2Proof.encode, opcodeOf, Command.legal, rsvField]

theorem EncodesLegal.ratior : EncodesLegal.Statement (.ratior) := by
  constructor <;> simp [Sys2Proof.encode, opcodeOf, Command.legal, rsvField]

theorem EncodesLegal.freqr : EncodesLegal.Statement (.freqr) := by
  constructor <;> simp [Sys2Proof.encode, opcodeOf, Command.legal, rsvField]

theorem EncodesLegal.vcorer : EncodesLegal.Statement (.vcorer) := by
  constructor <;> simp [Sys2Proof.encode, opcodeOf, Command.legal, rsvField]

theorem EncodesLegal.describe : EncodesLegal.Statement (.describe) := by
  constructor <;> simp [Sys2Proof.encode, opcodeOf, Command.legal, rsvField]

theorem EncodesLegal.addrfor (index : Word) : EncodesLegal.Statement (.addrfor index) := by
  constructor <;> simp [Sys2Proof.encode, opcodeOf, Command.legal, rsvField]

theorem EncodesLegal.apply : EncodesLegal.Statement (.apply) := by
  constructor <;> simp [Sys2Proof.encode, opcodeOf, Command.legal, rsvField]

end Sys2Proof.Laws
end

