-- ==== Sys2Proof/Laws/Sequencer.lean ====
section
/-! SUPPORT. What one waiting step can do, said once: the twelve outcomes of the sequencer rules, each with the whole next state.
Later proofs take a waiting step apart with `answerStep_advances` and never unfold the step. -/

namespace Sys2Proof.Machine

/-- The one-hot mask of a processor selects that processor. -/
@[simp] theorem maskCore_coreMask (k : Word) : maskCore (coreMask k) = k.toNat := by
  simp [maskCore, coreMask, Nat.log2_two_pow]

/-- A WRITE leaves the environment, or writes the one cell under the reference environment. -/
theorem envAfterWrite_cases (e : Env) (d : Draw) (a : MsrAddr) (m : Nat) (v : Word) :
    envAfterWrite e d a m v = e ∨
      (e.reading = .reference ∧ envAfterWrite e d a m v = { e with msr := writeMsr e.msr (maskCore m) a v }) := by
  unfold envAfterWrite
  cases h : e.reading with
  | free => exact .inl rfl
  | reference =>
    simp only []
    split
    · exact .inr ⟨trivial, rfl⟩
    · exact .inl rfl

/-- The environment of `s` after a WRITE of `v` at `addr` to processor `seq.k`. -/
abbrev envAfter (d : Draw) (s : State) (addr : MsrAddr) (v : Word) : Env :=
  envAfterWrite s.env d addr (coreMask s.seq.k) v

/-- The outcomes of a waiting step from `s` on the draw `d` (spec/43_apply.md R221, R232 to R241). -/
inductive Advances (d : Draw) (s : State) : State → Prop where
  | platSupported (hp : s.seq.phase = .platWait) (hb : platAnswer s.env d = true) :
      Advances d s (((s.record (.plat true)).setGuard guardSupported).complete)
  | platUnsupported (hp : s.seq.phase = .platWait) (hb : platAnswer s.env d = false) :
      Advances d s (((s.record (.plat false)).setGuard guardUnsupported).raise .platformUnsupported ErrInfo.zero)
  | topoError (c : IoCode) (hp : s.seq.phase = .topoWait) (ha : topoAnswer s.env d = .err c) :
      Advances d s ((s.record (.topo (.err c))).raise .threadCountUnknown
        { ErrInfo.zero with ioop := ioopTopology, iocode := c })
  | topoZero (hp : s.seq.phase = .topoWait) (ha : topoAnswer s.env d = .ok 0#64) :
      Advances d s ((s.record (.topo (.ok 0#64))).raise .threadCountUnknown ErrInfo.zero)
  | topoTooMany (n : Word) (hp : s.seq.phase = .topoWait) (ha : topoAnswer s.env d = .ok n) (h0 : n ≠ 0#64)
      (hn : s.cfg.maskWidth < n.toNat) :
      Advances d s ((s.record (.topo (.ok n))).raise .tooManyThreads
        { ErrInfo.zero with value := n, limit := BitVec.ofNat 64 s.cfg.maskWidth })
  | topoLock (n : Word) (hp : s.seq.phase = .topoWait) (ha : topoAnswer s.env d = .ok n) (h0 : n ≠ 0#64)
      (hn : n.toNat ≤ s.cfg.maskWidth) (ht : s.seq.tsc = true) :
      Advances d s ((s.record (.topo (.ok n))).setSeq { s.seq with n := n, k := 0#64, phase := .tscRdWait })
  | topoBroadcast (n : Word) (hp : s.seq.phase = .topoWait) (ha : topoAnswer s.env d = .ok n) (h0 : n ≠ 0#64)
      (hn : n.toNat ≤ s.cfg.maskWidth) (ht : s.seq.tsc = false) :
      Advances d s ((s.record (.topo (.ok n))).setSeq { s.seq with n := n, k := 0#64, phase := .bcWrWait })
  | readError (c : IoCode) (hp : s.seq.phase = .tscRdWait)
      (ha : readAnswer s.env d s.cfg.hwcrAddr (coreMask s.seq.k) = .err c) :
      Advances d s ((s.record (.read s.seq.k.toNat s.cfg.hwcrAddr (.err c))).raise .registerIoFailure
        { ErrInfo.zero with core := s.seq.k, addr := s.cfg.hwcrAddr, ioop := ioopRead, iocode := c })
  | readOk (v : Word) (hp : s.seq.phase = .tscRdWait)
      (ha : readAnswer s.env d s.cfg.hwcrAddr (coreMask s.seq.k) = .ok v) :
      Advances d s ((s.record (.read s.seq.k.toNat s.cfg.hwcrAddr (.ok v))).setSeq
        { s.seq with hw := withTscLock v, phase := .tscWrWait })
  | lockError (c : IoCode) (hp : s.seq.phase = .tscWrWait) (ha : d.error = some c) :
      Advances d s ((({ s with env := envAfter d s s.cfg.hwcrAddr s.seq.hw }).record
          (.write s.seq.k.toNat s.cfg.hwcrAddr s.seq.hw (.err c))).raise .registerIoFailure
        { ErrInfo.zero with
          core := s.seq.k, addr := s.cfg.hwcrAddr, ioop := ioopWrite, value := s.seq.hw, iocode := c })
  | lockNext (hp : s.seq.phase = .tscWrWait) (ha : d.error = none) (hk : s.seq.k.toNat + 1 < s.seq.n.toNat) :
      Advances d s ((({ s with env := envAfter d s s.cfg.hwcrAddr s.seq.hw }).record
          (.write s.seq.k.toNat s.cfg.hwcrAddr s.seq.hw (.ok ()))).setSeq
        { s.seq with k := s.seq.k + 1#64, phase := .tscRdWait })
  | lockLast (hp : s.seq.phase = .tscWrWait) (ha : d.error = none) (hk : s.seq.n.toNat ≤ s.seq.k.toNat + 1) :
      Advances d s ((({ s with env := envAfter d s s.cfg.hwcrAddr s.seq.hw }).record
          (.write s.seq.k.toNat s.cfg.hwcrAddr s.seq.hw (.ok ()))).setSeq
        { s.seq with k := 0#64, phase := .bcWrWait })
  | broadcastError (c : IoCode) (hp : s.seq.phase = .bcWrWait) (ha : d.error = some c) :
      Advances d s ((({ s with env := envAfter d s s.seq.addr s.seq.value }).record
          (.write s.seq.k.toNat s.seq.addr s.seq.value (.err c))).raise .registerIoFailure
        { ErrInfo.zero with
          core := s.seq.k, addr := s.seq.addr, ioop := ioopWrite, value := s.seq.value, iocode := c })
  | broadcastNext (hp : s.seq.phase = .bcWrWait) (ha : d.error = none) (hk : s.seq.k.toNat + 1 < s.seq.n.toNat) :
      Advances d s ((({ s with env := envAfter d s s.seq.addr s.seq.value }).record
          (.write s.seq.k.toNat s.seq.addr s.seq.value (.ok ()))).setSeq { s.seq with k := s.seq.k + 1#64 })
  | broadcastLast (hp : s.seq.phase = .bcWrWait) (ha : d.error = none) (hk : s.seq.n.toNat ≤ s.seq.k.toNat + 1) :
      Advances d s ((({ s with env := envAfter d s s.seq.addr s.seq.value }).record
          (.write s.seq.k.toNat s.seq.addr s.seq.value (.ok ()))).complete)

/-- Every waiting step is one of the outcomes. -/
theorem answerStep_advances {d : Draw} {s : State} (hp : s.seq.phase ≠ .idle) : Advances d s (answerStep d s) := by
  cases hph : s.seq.phase with
  | idle => exact absurd hph hp
  | platWait =>
    simp only [answerStep, hph, platStep]
    cases hb : platAnswer s.env d with
    | true => exact .platSupported hph hb
    | false => exact .platUnsupported hph hb
  | topoWait =>
    simp only [answerStep, hph, topoStep]
    cases ha : topoAnswer s.env d with
    | err c => exact .topoError c hph ha
    | ok n =>
      simp only [State.record_cfg, State.record_seq]
      by_cases h0 : n = 0#64
      · subst h0
        simpa using Advances.topoZero hph ha
      · by_cases hn : s.cfg.maskWidth < n.toNat
        · simpa only [h0, hn, if_true, if_false] using Advances.topoTooMany n hph ha h0 hn
        · simp only [h0, hn, if_false]
          cases ht : s.seq.tsc with
          | true => simpa [h0, hn, ht, firstPass] using Advances.topoLock n hph ha h0 (by omega) ht
          | false => simpa [h0, hn, ht, firstPass] using Advances.topoBroadcast n hph ha h0 (by omega) ht
  | tscRdWait =>
    simp only [answerStep, hph, tscReadStep, maskCore_coreMask]
    cases ha : readAnswer s.env d s.cfg.hwcrAddr (coreMask s.seq.k) with
    | err c => exact .readError c hph ha
    | ok v => exact .readOk v hph ha
  | tscWrWait =>
    simp only [answerStep, hph, tscWriteStep, portWrite, moreCores, writeAnswer, maskCore_coreMask, decide_eq_true_eq]
    cases ha : d.error with
    | some c => exact .lockError c hph ha
    | none =>
      by_cases hk : s.seq.k.toNat + 1 < s.seq.n.toNat
      · simpa only [hk, if_true] using Advances.lockNext hph ha hk
      · simpa only [hk, if_false] using Advances.lockLast hph ha (by omega)
  | bcWrWait =>
    simp only [answerStep, hph, broadcastStep, portWrite, moreCores, writeAnswer, maskCore_coreMask, decide_eq_true_eq]
    cases ha : d.error with
    | some c => exact .broadcastError c hph ha
    | none =>
      by_cases hk : s.seq.k.toNat + 1 < s.seq.n.toNat
      · simp only [hk, if_true, ← hph]
        exact Advances.broadcastNext hph ha hk
      · simpa only [hk, if_false] using Advances.broadcastLast hph ha (by omega)

end Sys2Proof.Machine
end

