-- ==== Sys2Proof/Laws/Step.lean ====
section
/-! SUPPORT. What one step of the machine can do, said once: later proofs take a step apart with `step_moves`. -/

namespace Sys2Proof.Machine

/-- The outcomes of a step that answers a next state. -/
inductive Moves (s : State) : State → Prop where
  | reset (rest : List HostMove) (hh : s.host = .reset :: rest) : Moves s (applyReset { s with host := rest })
  | command (c : Command) (i : Instr) (rest : List HostMove) (t : State) (hb : s.busy = false)
      (hh : s.host = .command c :: rest) (hd : decode c = .legal i) (he : exec i { s with host := rest } = .next t) : Moves s t
  | illegal (c : Command) (why : IllegalWord) (rest : List HostMove) (hb : s.busy = false)
      (hh : s.host = .command c :: rest) (hd : decode c = .illegal why) : Moves s (execIllegal c.cmd { s with host := rest })
  | outside (k : Nat) (a : MsrAddr) (v : Word) (rest : List HostMove) (hb : s.busy = false)
      (hh : s.host = .outsideWrite k a v :: rest) : Moves s (({ s with host := rest } : State).outsideWrite k a v)
  | poll (rest : List HostMove) (hb : s.busy = false) (hh : s.host = .poll :: rest) : Moves s { s with host := rest }
  | idle (hb : s.busy = false) (hh : s.host = []) : Moves s s
  | unanswered (left : List HostMove) (hb : s.busy = true) (hp : s.seq.phase ≠ .idle)
      (hn : ∀ rest, s.host ≠ .reset :: rest) (hh : left = s.host ∨ s.host = .poll :: left) (hd : s.draws = []) :
      Moves s { s with host := left }
  | answered (left : List HostMove) (d : Draw) (rest : List Draw) (hb : s.busy = true) (hp : s.seq.phase ≠ .idle)
      (hn : ∀ rest, s.host ≠ .reset :: rest) (hh : left = s.host ∨ s.host = .poll :: left) (hd : s.draws = d :: rest) :
      Moves s (answerStep d { s with host := left, draws := rest })

/-- A wait either stays for want of an answer or takes the next draw. -/
theorem waitStep_next {s t : State} (h : waitStep s = .next t) :
    s.seq.phase ≠ .idle ∧ ((s.draws = [] ∧ t = s) ∨ ∃ d rest, s.draws = d :: rest ∧ t = answerStep d { s with draws := rest }) := by
  unfold waitStep at h
  split at h
  · cases h
  · rename_i hp
    refine ⟨hp, ?_⟩
    cases hd : s.draws with
    | nil => rw [hd] at h; cases h; exact .inl ⟨rfl, rfl⟩
    | cons d rest => rw [hd] at h; cases h; exact .inr ⟨d, rest, rfl, rfl⟩

theorem busyStep_moves {s t : State} (hb : s.busy = true) (h : busyStep s = .next t) : Moves s t := by
  have held : ∀ left, (∀ rest, s.host ≠ .reset :: rest) → (left = s.host ∨ s.host = .poll :: left) →
      waitStep { s with host := left } = .next t → Moves s t := by
    intro left hn hh hw
    obtain ⟨hp, ⟨hd, rfl⟩ | ⟨d, rest, hd, rfl⟩⟩ := waitStep_next hw
    · exact .unanswered left hb hp hn hh hd
    · exact .answered left d rest hb hp hn hh hd
  cases hh : s.host with
  | nil => simp only [busyStep, hh] at h; exact held s.host (by simp [hh]) (.inl rfl) h
  | cons m rest =>
    cases m with
    | reset => simp only [busyStep, hh] at h; cases h; exact .reset rest hh
    | poll => simp only [busyStep, hh] at h; exact held rest (by simp [hh]) (.inr hh) h
    | command c => simp only [busyStep, hh] at h; exact held s.host (by simp [hh]) (.inl rfl) h
    | outsideWrite k a v => simp only [busyStep, hh] at h; exact held s.host (by simp [hh]) (.inl rfl) h

theorem idleStep_moves {s t : State} (hb : s.busy = false) (h : idleStep s = .next t) : Moves s t := by
  cases hh : s.host with
  | nil => simp only [idleStep, hh] at h; cases h; exact .idle hb hh
  | cons m rest =>
    cases m with
    | reset => simp only [idleStep, hh] at h; cases h; exact .reset rest hh
    | poll => simp only [idleStep, hh] at h; cases h; exact .poll rest hb hh
    | outsideWrite k a v => simp only [idleStep, hh] at h; cases h; exact .outside k a v rest hb hh
    | command c =>
      simp only [idleStep, hh, acceptCommand] at h
      cases hd : decode c with
      | legal i => rw [hd] at h; exact .command c i rest t hb hh hd h
      | illegal why => rw [hd] at h; cases h; exact .illegal c why rest hb hh hd

/-- A step that answers a next state runs under a well-formed configuration and is one of the moves. -/
theorem step_moves {s t : State} (h : step s = .next t) : s.cfg.wf = true ∧ Moves s t := by
  unfold step at h
  split at h
  · rename_i hc
    refine ⟨hc, ?_⟩
    unfold stepBody at h
    split at h
    · rename_i hb; exact busyStep_moves hb h
    · rename_i hb; exact idleStep_moves (by simpa using hb) h
  · cases h

/-- A reset leaves the block as after reset; only the cells of the environment and the draws may differ by the abandoned
request. -/
theorem applyReset_eq (s : State) : ∃ (m : Memory) (ds : List Draw),
    applyReset s = { State.reset with cfg := s.cfg, env := { s.env with msr := m }, host := s.host, draws := ds } ∧
    (m = s.env.msr ∨ ∃ k a v, m = writeMsr s.env.msr k a v) := by
  have same : ∀ ds, { s with draws := ds }.resetBlock =
      { State.reset with cfg := s.cfg, env := { s.env with msr := s.env.msr }, host := s.host, draws := ds } := fun _ => rfl
  unfold applyReset abandonRequest
  split
  · rename_i r d rest hr hd
    cases r with
    | plat => exact ⟨s.env.msr, rest, same rest, .inl rfl⟩
    | topo => exact ⟨s.env.msr, rest, same rest, .inl rfl⟩
    | read a m => exact ⟨s.env.msr, rest, same rest, .inl rfl⟩
    | write a m v =>
      rcases envAfterWrite_cases s.env d a m v with h | ⟨_, h⟩
      · refine ⟨s.env.msr, rest, ?_, .inl rfl⟩
        simp only [envAfterRequest, h]
        exact same rest
      · refine ⟨writeMsr s.env.msr (maskCore m) a v, rest, ?_, .inr ⟨_, _, _, rfl⟩⟩
        simp only [envAfterRequest, h]
        rfl
  · exact ⟨s.env.msr, s.draws, same s.draws, .inl rfl⟩

/-- A run of one more step begins with that step. -/
theorem run_succ_of_next {s u : State} (h : step s = .next u) (n : Nat) :
    Host.Core.run Sys2Proof.core (n + 1) s = Host.Core.run Sys2Proof.core n u := by
  have h' : Sys2Proof.core.step s = .next u := h
  simp only [Host.Core.run, h']

/-- A run of one more step that answers a next state has a first step that does. -/
theorem run_succ_next {s t : State} {n : Nat} (h : Host.Core.run Sys2Proof.core (n + 1) s = .next t) :
    ∃ u, step s = .next u ∧ Host.Core.run Sys2Proof.core n u = .next t := by
  cases hs : step s with
  | next u => exact ⟨u, rfl, by rw [← run_succ_of_next hs n]; exact h⟩
  | fault f =>
    have h' : Sys2Proof.core.step s = .fault f := hs
    simp only [Host.Core.run, h'] at h
    cases h
  | refused r =>
    have h' : Sys2Proof.core.step s = .refused r := hs
    simp only [Host.Core.run, h'] at h
    cases h

/-- No step changes the configuration. -/
theorem step_cfg {s t : State} (h : step s = .next t) : t.cfg = s.cfg := by
  obtain ⟨_, hm⟩ := step_moves h
  cases hm with
  | reset rest hh =>
    obtain ⟨m, ds, he, _⟩ := applyReset_eq { s with host := rest }
    rw [he]
  | command c i rest _ hb hh hd he =>
    obtain ⟨t', ht, h1, _⟩ := exec_frame i { s with host := rest }
    rw [he] at ht
    cases ht
    exact h1
  | answered left d rest hb hp hn hh hd =>
    have ha := answerStep_advances (d := d) (s := { s with host := left, draws := rest }) hp
    revert ha
    generalize answerStep d _ = u
    intro ha
    cases ha <;> rfl
  | illegal c why rest hb hh hd => rfl
  | outside k a v rest hb hh => rfl
  | poll rest hb hh => rfl
  | idle hb hh => rfl
  | unanswered left hb hp hn hh hd => rfl

/-- A step takes at most the next move off the host's list. -/
theorem step_host {s t : State} (h : step s = .next t) : t.host = s.host ∨ ∃ m, s.host = m :: t.host := by
  obtain ⟨_, hm⟩ := step_moves h
  cases hm with
  | reset rest hh =>
    obtain ⟨m, ds, he, _⟩ := applyReset_eq { s with host := rest }
    rw [he]
    exact .inr ⟨_, hh⟩
  | command c i rest _ hb hh hd he =>
    obtain ⟨t', ht, _, _, h3, _⟩ := exec_frame i { s with host := rest }
    rw [he] at ht
    cases ht
    rw [h3]
    exact .inr ⟨_, hh⟩
  | illegal c why rest hb hh hd => exact .inr ⟨_, hh⟩
  | outside k a v rest hb hh => exact .inr ⟨_, hh⟩
  | poll rest hb hh => exact .inr ⟨_, hh⟩
  | idle hb hh => exact .inl rfl
  | unanswered left hb hp hn hh hd =>
    rcases hh with rfl | hh
    · exact .inl rfl
    · exact .inr ⟨_, hh⟩
  | answered left d rest hb hp hn hh hd =>
    have ha := answerStep_advances (d := d) (s := { s with host := left, draws := rest }) hp
    revert ha
    generalize answerStep d _ = u
    intro ha
    have hl : u.host = left := by cases ha <;> rfl
    rw [hl]
    rcases hh with rfl | hh
    · exact .inl rfl
    · exact .inr ⟨_, hh⟩

/-- Two runs one after the other are one run. -/
theorem run_trans {s u t : State} {m n : Nat} (h1 : Host.Core.run Sys2Proof.core m s = .next u)
    (h2 : Host.Core.run Sys2Proof.core n u = .next t) : Host.Core.run Sys2Proof.core (m + n) s = .next t := by
  induction m generalizing s with
  | zero =>
    simp only [Host.Core.run] at h1
    cases h1
    rw [Nat.zero_add]
    exact h2
  | succ m ih =>
    obtain ⟨w, hw, hr⟩ := run_succ_next h1
    rw [show m + 1 + n = (m + n) + 1 by omega, run_succ_of_next hw]
    exact ih hr

end Sys2Proof.Machine
end

