-- ==== Sys2Proof/Machine/Assembler.lean ====
section
/-! DEFINITION. The assembler syntax of command sequences (spec/30_encoding.md R101): text to the commands a host presents.
There are no pseudo-instructions (R102). -/

namespace Sys2Proof.Machine

/-- Why a line is not in the syntax of R101. -/
inductive AsmError where
  /-- The first word is no mnemonic of R95. -/
  | unknownMnemonic
  /-- An operand is no unsigned 64-bit integer in decimal or `0x` form. -/
  | badOperand
  /-- More than two operands. -/
  | tooManyOperands
deriving DecidableEq, Repr

/-- What assembling answers. -/
inductive Assembled (α : Type) where
  | ok (a : α)
  | error (why : AsmError)
deriving DecidableEq, Repr

/-- The upper-case mnemonics of R95 with their opcodes. -/
def mnemonicTable : List (List Char × BitVec 8) :=
  [("CHKPLAT".toList, 0x01#8), ("CONSTRUCT".toList, 0x02#8), ("GETFID".toList, 0x03#8), ("GETDID".toList, 0x04#8),
   ("GETVID".toList, 0x05#8), ("SETFID".toList, 0x06#8), ("SETDID".toList, 0x07#8), ("SETVID".toList, 0x08#8),
   ("ENCODE".toList, 0x09#8), ("RATIO".toList, 0x0A#8), ("FREQ".toList, 0x0B#8), ("VCORE".toList, 0x0C#8),
   ("RATIOR".toList, 0x0D#8), ("FREQR".toList, 0x0E#8), ("VCORER".toList, 0x0F#8), ("DESCRIBE".toList, 0x10#8),
   ("ADDRFOR".toList, 0x11#8), ("APPLY".toList, 0x12#8)]

/-- The opcode of a mnemonic, upper or lower case alike (R101). -/
def lookupMnemonic (name : List Char) (table : List (List Char × BitVec 8)) : Option (BitVec 8) :=
  match table with
  | [] => none
  | (m, op) :: rest => if name.map Char.toUpper = m then some op else lookupMnemonic name rest

/-- A blank of a line. -/
def isBlank (c : Char) : Bool := c = ' ' || c = '\t' || c = '\r'

/-- The value of a digit in hexadecimal; decimal digits come first. -/
def digitValue (c : Char) : Option Nat :=
  if '0' ≤ c ∧ c ≤ '9' then some (c.toNat - '0'.toNat)
  else if 'a' ≤ c ∧ c ≤ 'f' then some (c.toNat - 'a'.toNat + 10)
  else if 'A' ≤ c ∧ c ≤ 'F' then some (c.toNat - 'A'.toNat + 10)
  else none

/-- Digits of a base, `_` skipped, onto what has been read. -/
def readDigits (base : Nat) (acc : Nat) (cs : List Char) : Option Nat :=
  match cs with
  | [] => some acc
  | c :: rest =>
    if c = '_' then readDigits base acc rest
    else
      match digitValue c with
      | some v => if v < base then readDigits base (acc * base + v) rest else none
      | none => none

/-- An operand: decimal, or hexadecimal with `0x`, at most 64 bits (R101, R97; what R101 leaves open is assumption 14). -/
def readOperand (cs : List Char) : Option Word :=
  let number :=
    match cs with
    | '0' :: 'x' :: d :: rest => if d = '_' then none else readDigits 16 0 (d :: rest)
    | d :: rest => if d = '_' then none else readDigits 10 0 (d :: rest)
    | [] => none
  match number with
  | some n => if n < 2 ^ 64 then some (BitVec.ofNat 64 n) else none
  | none => none

/-- A line without blanks at either end. -/
def trimBlanks (cs : List Char) : List Char :=
  ((cs.dropWhile isBlank).reverse.dropWhile isBlank).reverse

/-- The parts of a text between separators, in order. -/
def splitAtChar (sep : Char) (cs : List Char) : List (List Char) :=
  match cs with
  | [] => [[]]
  | c :: rest =>
    if c = sep then [] :: splitAtChar sep rest
    else
      match splitAtChar sep rest with
      | [] => [[c]]
      | part :: parts => (c :: part) :: parts

/-- The operands of a command in the order `OPA`, `OPB`; an omitted operand is 0 (R101). -/
def readOperands (cs : List Char) : Assembled (Word × Word) :=
  match trimBlanks cs with
  | [] => .ok (0#64, 0#64)
  | text =>
    match (splitAtChar ',' text).map (fun part => readOperand (trimBlanks part)) with
    | [some a] => .ok (a, 0#64)
    | [some a, some b] => .ok (a, b)
    | _ :: _ :: _ :: _ => .error .tooManyOperands
    | _ => .error .badOperand

/-- One line: a comment starts at `;`, and a line with nothing before it holds no command (R101). -/
def assembleLine (cs : List Char) : Assembled (Option Command) :=
  match trimBlanks (cs.takeWhile (fun c => c ≠ ';')) with
  | [] => .ok none
  | text =>
    match lookupMnemonic (text.takeWhile (fun c => !isBlank c)) mnemonicTable with
    | none => .error .unknownMnemonic
    | some op =>
      match readOperands (text.dropWhile (fun c => !isBlank c)) with
      | .ok (a, b) => .ok (some ⟨op.setWidth 16, a, b⟩)
      | .error why => .error why

/-- The commands of several lines, in order. -/
def assembleLines (lines : List (List Char)) : Assembled (List Command) :=
  match lines with
  | [] => .ok []
  | l :: rest =>
    match assembleLine l, assembleLines rest with
    | .error why, _ => .error why
    | .ok _, .error why => .error why
    | .ok none, .ok cs => .ok cs
    | .ok (some c), .ok cs => .ok (c :: cs)

/-- A program text, one command per line (R101). -/
def assemble (text : String) : Assembled (List Command) := assembleLines (splitAtChar '\n' text.toList)

end Sys2Proof.Machine
end

