-- ==== Sys2Proof/Tests/Slice0.lean ====
section
/-! SUPPORT. The model's own tests. Expected results are the vectors V<n> of spec/95_test_vectors.md, the binary words of
spec/opcode_table.json, or hand calculation from a named rule; a test on fixed values checks the model and is no claim. -/

namespace Sys2Proof.Machine

/-! ### Small states -/

/-- The register value `R` of spec/95_test_vectors.md. -/
def testR : Word := 0x8000000000120890#64

/-- Reset, with the slot holding `R` at the given index. -/
def heldAt (index : BitVec 3) : State := { State.reset with slot := ⟨true, index, testR⟩ }

/-- Reset, with the slot holding the given value at index 1. -/
def heldRaw (raw : Word) : State := { State.reset with slot := ⟨true, 1#3, raw⟩ }

/-- `s` with one presented command. -/
def presented (c : Command) (s : State) : State := { s with host := [.command c] }

/-- The next state of an outcome, or `s` where there is none. -/
def nextOr (o : Host.Outcome State Fault Refusal) (s : State) : State :=
  match o with
  | .next t => t
  | .fault _ => s
  | .refused _ => s

/-- The state an instruction leaves. -/
def left (i : Instr) (s : State) : State := nextOr (exec i s) s

/-- The state one step leaves. -/
def stepped (s : State) : State := nextOr (step s) s

/-- The state `n` steps leave. -/
def after (n : Nat) (s : State) : State := nextOr (Host.Core.run Sys2Proof.core n s) s

/-- An `Ok` answer and an `Err(7)` answer. -/
def okDraw (v : Word) : Draw := ⟨true, none, v, false⟩
def errDraw (performed : Bool) : Draw := ⟨false, some 7#32, 0#64, performed⟩

/-- The environment of R242: two processors, HWCR 0x10 and 0x200010. -/
def env242 : Env :=
  ⟨.reference, true, 2#64, writeMsr (writeMsr [] 0 0xC0010015#32 0x10#64) 1 0xC0010015#32 0x200010#64⟩

/-- The start of R242 with APPLY presented, ENCODE behind it, and eight answers to come. -/
def start242 (index : BitVec 3) (draws : List Draw) : State :=
  { heldAt index with
    guard := 1#2, env := env242, draws := draws
    host := [.command (encode .apply), .command (encode .encode)] }

/-- Inside an APPLY of `R` to index 0 on two processors, in a pass, at processor `k`. -/
def inPass (p : Phase) (k : Word) (reading : Reading) (d : Draw) : State :=
  { heldAt 0#3 with
    guard := 1#2, busy := true, draws := [d]
    seq := ⟨p, k, 2#64, 0xC0010064#32, testR, true, 0x200010#64⟩
    env := { env242 with reading := reading } }

/-- Inside an APPLY, the TOPO request outstanding. -/
def inTopo (tsc : Bool) (count : Word) (e : Option IoCode) : State :=
  { heldAt 0#3 with
    guard := 1#2, busy := true, draws := [⟨true, e, 0#64, false⟩]
    seq := ⟨.topoWait, 0#64, 0#64, 0xC0010064#32, testR, tsc, 0#64⟩
    env := { env242 with nHw := count } }

/-- Inside a CHKPLAT. -/
def inPlat (reading : Reading) (supported : Bool) : State :=
  { State.reset with
    busy := true, draws := [⟨supported, none, 0#64, false⟩]
    seq := { State.reset.seq with phase := .platWait }
    env := { State.reset.env with reading := reading, supported := supported } }

/-! ### Decoding: the word of every row of the opcode table, bit by bit -/

theorem test_decode_chkplat : decode ⟨0b0000000000000001#16, 5#64, 9#64⟩ = .legal .chkplat := by decide
theorem test_decode_construct : decode ⟨0b0000000000000010#16, 5#64, 9#64⟩ = .legal (.construct 5#64 9#64) := by decide
theorem test_decode_getfid : decode ⟨0b0000000000000011#16, 5#64, 9#64⟩ = .legal .getfid := by decide
theorem test_decode_getdid : decode ⟨0b0000000000000100#16, 5#64, 9#64⟩ = .legal .getdid := by decide
theorem test_decode_getvid : decode ⟨0b0000000000000101#16, 5#64, 9#64⟩ = .legal .getvid := by decide
theorem test_decode_setfid : decode ⟨0b0000000000000110#16, 5#64, 9#64⟩ = .legal (.setfid 5#64) := by decide
theorem test_decode_setdid : decode ⟨0b0000000000000111#16, 5#64, 9#64⟩ = .legal (.setdid 5#64) := by decide
theorem test_decode_setvid : decode ⟨0b0000000000001000#16, 5#64, 9#64⟩ = .legal (.setvid 5#64) := by decide
theorem test_decode_encode : decode ⟨0b0000000000001001#16, 5#64, 9#64⟩ = .legal .encode := by decide
theorem test_decode_ratio : decode ⟨0b0000000000001010#16, 5#64, 9#64⟩ = .legal (.ratio 5#64 9#64) := by decide
theorem test_decode_freq : decode ⟨0b0000000000001011#16, 5#64, 9#64⟩ = .legal (.freq 5#64 9#64) := by decide
theorem test_decode_vcore : decode ⟨0b0000000000001100#16, 5#64, 9#64⟩ = .legal (.vcore 5#64) := by decide
theorem test_decode_ratior : decode ⟨0b0000000000001101#16, 5#64, 9#64⟩ = .legal .ratior := by decide
theorem test_decode_freqr : decode ⟨0b0000000000001110#16, 5#64, 9#64⟩ = .legal .freqr := by decide
theorem test_decode_vcorer : decode ⟨0b0000000000001111#16, 5#64, 9#64⟩ = .legal .vcorer := by decide
theorem test_decode_describe : decode ⟨0b0000000000010000#16, 5#64, 9#64⟩ = .legal .describe := by decide
theorem test_decode_addrfor : decode ⟨0b0000000000010001#16, 5#64, 9#64⟩ = .legal (.addrfor 5#64) := by decide
theorem test_decode_apply : decode ⟨0b0000000000010010#16, 5#64, 9#64⟩ = .legal .apply := by decide

/-- V3 to V8, with the reason of R98. -/
theorem test_decode_illegal :
    decode ⟨0x0000#16, 0#64, 0#64⟩ = .illegal .opcodeZero ∧ decode ⟨0x0013#16, 0#64, 0#64⟩ = .illegal .opcodeUnassigned ∧
    decode ⟨0x00FF#16, 0#64, 0#64⟩ = .illegal .opcodeUnassigned ∧ decode ⟨0x0102#16, 0#64, 0#64⟩ = .illegal .reservedBits ∧
    decode ⟨0x8012#16, 0#64, 0#64⟩ = .illegal .reservedBits ∧ decode ⟨0xFFFF#16, 0#64, 0#64⟩ = .illegal .reservedBits := by
  decide

/-- V6: an illegal word completes with status 0x14 and the word in `ERR_VALUE`, and the slot keeps its value. -/
theorem test_illegal_word :
    let t := stepped (presented ⟨0x0102#16, 1#64, 0#64⟩ (heldAt 1#3))
    t.status = 0x14#8 ∧ t.err.value = 0x102#64 ∧ t.slot = ⟨true, 1#3, testR⟩ := by decide

/-- The encoder writes the words of program P1. -/
theorem test_encode_p1 :
    encode (.construct 1#64 testR) = ⟨0x0002#16, 0x1#64, 0x8000000000120890#64⟩ ∧
    encode (.setfid 0xA0#64) = ⟨0x0006#16, 0xA0#64, 0x0#64⟩ := by decide

/-- Bits 15..0 are the command word, 79..16 and 143..80 the operand words. -/
theorem test_table_word :
    decodeTableWord 16 0x0012 = some .apply ∧ decodeTableWord 16 0x0013 = none ∧
    decodeTableWord 16 0x0002 = some (.construct 0#64 0#64) ∧
    decodeTableWord 144 (0x0002 + 3 * 2 ^ 16 + 7 * 2 ^ 80) = some (.construct 3#64 7#64) := by decide

theorem test_fetch_word :
    (State.reset.withFetchWord 16 0x0003).host = [.command ⟨0x0003#16, 0#64, 0#64⟩] ∧
    (stepped (State.reset.withFetchWord 16 0x0003)).status = 0x11#8 := by decide

/-! ### Well-formedness: each check refuses an ill-formed term -/

theorem test_wf_standard : Config.standard.wf = true := by decide
theorem test_wf_fid_order : { Config.standard with fidMin := 0x20, fidMax := 0x1F }.wf = false := by decide
theorem test_wf_fid_width : { Config.standard with fidMax := 0x100 }.wf = false := by decide
theorem test_wf_did_order : { Config.standard with didMin := 0x1B }.wf = false := by decide
theorem test_wf_did_width : { Config.standard with didMax := 0x40 }.wf = false := by decide
theorem test_wf_vid_order : { Config.standard with vidMin := 0xA9 }.wf = false := by decide
theorem test_wf_vid_width : { Config.standard with vidMax := 0x100 }.wf = false := by decide
theorem test_wf_did_zero : { Config.standard with didMin := 0 }.wf = false := by decide
theorem test_wf_mask_zero : { Config.standard with maskWidth := 0 }.wf = false := by decide
theorem test_legal_words :
    (Command.mk 0x0001#16 0#64 0#64).legal = true ∧ (Command.mk 0x0012#16 0#64 0#64).legal = true ∧
    (Command.mk 0x0000#16 0#64 0#64).legal = false ∧ (Command.mk 0x0013#16 0#64 0#64).legal = false ∧
    (Command.mk 0x0101#16 0#64 0#64).legal = false := by decide
theorem test_memory_wf_refuses :
    Memory.wf [(2, 1#64), (1, 1#64)] = false ∧ Memory.wf [(1, 0#64)] = false ∧ Memory.wf [(1, 1#64), (1, 1#64)] = false := by
  decide

/-! ### One or two steps' tests per command -/

/-- V63b: latched, no request. -/
theorem test_chkplat_latched :
    let t := left .chkplat { State.reset with guard := 1#2 }
    t.status = 0#8 ∧ t.busy = false := by decide

/-- V63c, the answer. -/
theorem test_chkplat_false :
    let t := stepped (inPlat .reference false)
    t.guard = 2#2 ∧ t.status = 0x01#8 ∧ t.history = [.plat false] := by decide

/-- V14: the index is checked first. -/
theorem test_construct_index_first :
    let t := left (.construct 9#64 0#64) (heldAt 1#3)
    t.status = 0x03#8 ∧ t.err.value = 9#64 ∧ t.slot.valid = false := by decide

/-- V18: an emptied slot keeps its stale contents. -/
theorem test_construct_disabled :
    let t := left (.construct 3#64 0x0000000000120890#64) (heldAt 1#3)
    t.status = 0x02#8 ∧ t.slot = ⟨false, 1#3, testR⟩ := by decide

/-- V11, V17. -/
theorem test_getfid : (left .getfid (heldAt 1#3)).res.res0 = 0x90#64 := by decide
theorem test_getdid : (left .getdid (heldRaw 0xFFFFFFFFFFFFFFFF#64)).res.res0 = 0x3F#64 := by decide
theorem test_getvid : (left .getvid (heldAt 1#3)).res.res0 = 0x48#64 := by decide

/-- V24: no truncation. -/
theorem test_setfid_above :
    let t := left (.setfid 0x110#64) (heldAt 1#3)
    t.status = 0x04#8 ∧ t.err.bound = 2#2 ∧ t.slot.raw = testR := by decide

/-- V32. -/
theorem test_setfid : (left (.setfid 0x10#64) (heldRaw 0xFFFFFFFFFFFFFFFF#64)).slot.raw = 0xFFFFFFFFFFFFFF10#64 := by decide

/-- V28. -/
theorem test_setdid : (left (.setdid 0x1A#64) (heldAt 1#3)).slot.raw = 0x8000000000121A90#64 := by decide

/-- V33. -/
theorem test_setdid_isolated :
    (left (.setdid 0x08#64) (heldRaw 0xFFFFFFFFFFFFFF10#64)).slot.raw = 0xFFFFFFFFFFFFC810#64 := by decide

/-- V31c. -/
theorem test_setvid : (left (.setvid 0xA8#64) (heldAt 1#3)).slot.raw = 0x80000000002A0890#64 := by decide

/-- V31a. -/
theorem test_setvid_below :
    let t := left (.setvid 0x1F#64) (heldAt 1#3)
    t.status = 0x04#8 ∧ t.err.field = 3#2 ∧ t.err.limit = 0x20#64 := by decide

/-- V35. -/
theorem test_encode : (left .encode (heldRaw 0xFFFFFFFFFFC80810#64)).res.res0 = 0xFFFFFFFFFFC80810#64 := by decide

/-- V40. -/
theorem test_ratio :
    let t := left (.ratio 100#64 12#64) State.reset
    t.res.res0 = 200#64 ∧ t.res.res1 = 12#64 := by decide

/-- V49: the domain of fid comes before the division. -/
theorem test_ratio_domain_first :
    let t := left (.ratio 0x100#64 0#64) State.reset
    t.status = 0x13#8 ∧ t.err.field = 1#2 := by decide

/-- V46. -/
theorem test_freq : (left (.freq 255#64 255#64) State.reset).res.res0 = 0xC738#64 := by decide

/-- V50. -/
theorem test_freq_zero :
    let t := left (.freq 5#64 0#64) State.reset
    t.status = 0x12#8 ∧ t.err.field = 2#2 := by decide

/-- V53. -/
theorem test_vcore : (left (.vcore 96#64) State.reset).res.res0 = 0xE7EF0#64 := by decide

/-- V57: below 0 V, in two's complement. -/
theorem test_vcore_negative : (left (.vcore 255#64) State.reset).res.res0 = 0xFFFFFFFFFFFF551A#64 := by decide

/-- V59. -/
theorem test_ratior :
    let t := left .ratior (heldAt 1#3)
    t.res.res0 = 288#64 ∧ t.res.res1 = 8#64 := by decide
theorem test_freqr : (left .freqr (heldAt 1#3)).res.res0 = 28800#64 := by decide
theorem test_vcorer : (left .vcorer (heldAt 1#3)).res.res0 = 0x10C8E0#64 := by decide

/-- V61. -/
theorem test_describe :
    (left .describe (heldRaw 0x800000004A5B8C6D#64)).res =
      ⟨0x6D#64, 0x0C#64, 0x6E#64, 0xDA#64, 0x5528#64, 0xD2924#64⟩ := by decide

/-- V62. -/
theorem test_describe_zero_did :
    let t := left .describe (heldRaw 0x8000000000000000#64)
    t.status = 0x12#8 ∧ t.res = Results.zero := by decide

/-- V77, V78. -/
theorem test_addrfor : (left (.addrfor 7#64) State.reset).res.res0 = 0xC001006B#64 := by decide
theorem test_addrfor_above :
    let t := left (.addrfor 8#64) State.reset
    t.status = 0x03#8 ∧ t.err.limit = 7#64 := by decide

/-- R226 with index 3: the launch. -/
theorem test_apply_launch :
    let t := left .apply { heldAt 3#3 with guard := 1#2 }
    t.busy = true ∧ t.seq = ⟨.topoWait, 0#64, 0#64, 0xC0010067#32, testR, false, 0#64⟩ := by decide

/-- R238, with the HWCR cell of processor 0 of R242. -/
theorem test_apply_lock_step :
    let t := stepped (inPass .tscRdWait 0#64 .reference (okDraw 0#64))
    t.seq.hw = 0x200010#64 ∧ t.history = [.read 0 0xC0010015#32 (.ok 0x10#64)] := by decide

/-! ### The assembler (R101) -/

theorem test_assemble_p1 :
    assemble "CONSTRUCT 1, 0x8000_0000_0012_0890\nGETFID ; a comment\n\n setfid 0xA0" =
      .ok [⟨0x0002#16, 0x1#64, 0x8000000000120890#64⟩, ⟨0x0003#16, 0#64, 0#64⟩, ⟨0x0006#16, 0xA0#64, 0#64⟩] := by decide
theorem test_assemble_refuses :
    assemble "NOP" = .error .unknownMnemonic ∧ assemble "SETFID 0x1_0000_0000_0000_0000" = .error .badOperand ∧
    assemble "RATIO 1, 2, 3" = .error .tooManyOperands := by decide

/-! ### Witnesses: concrete states and operands that meet the hypotheses of each obligation -/

theorem witness_DecodeAndEncodeAgree :
    decode ⟨0x0012#16, 1#64, 2#64⟩ = .legal .apply ∧ decode ⟨0x0001#16, 1#64, 2#64⟩ = .legal .chkplat := by decide

theorem witness_IllegalWordRaisesIllegalCommand :
    let s := presented ⟨0x0013#16, 0#64, 0#64⟩ (heldAt 1#3)
    s.cfg.wf = true ∧ s.busy = false ∧ s.host = .command ⟨0x0013#16, 0#64, 0#64⟩ :: [] ∧
    (0x0100#16).toNat / 256 ≠ 0 ∧ (0x0000#16).toNat % 256 = 0 ∧ 0x13 ≤ (0x0013#16).toNat % 256 := by decide

theorem witness_StepExecutesThePresentedCommand :
    let s := presented (encode (.setfid 0x10#64)) (heldAt 1#3)
    s.cfg.wf = true ∧ s.busy = false ∧ s.host = .command (encode (.setfid 0x10#64)) :: [] ∧
    decode (encode (.setfid 0x10#64)) = .legal (.setfid 0x10#64) := by decide

theorem witness_BusyBlockHoldsCommands :
    let s := presented (encode .encode) (inPass .bcWrWait 0#64 .reference (okDraw 0#64))
    s.busy = true ∧ s.host = .command (encode .encode) :: [] ∧ HostMove.command (encode .encode) ≠ .reset ∧
    HostMove.command (encode .encode) ≠ .poll := by decide

theorem witness_UnansweredRequestHangsForEver :
    let s := { inPlat .free true with draws := [] }
    s.cfg.wf = true ∧ s.busy = true ∧ s.seq.phase ≠ .idle ∧ s.draws = [] ∧ commandsOnly s.host = true := by decide

theorem witness_IdleBlockStaysIdle :
    (heldAt 1#3).cfg.wf = true ∧ (heldAt 1#3).busy = false ∧ (heldAt 1#3).host = [] := by decide

theorem witness_ResetMoveResetsTheBlock :
    (∀ s ∈ [heldAt 1#3, inPass .tscWrWait 1#64 .reference (errDraw true), inPass .bcWrWait 1#64 .reference (errDraw false)],
      ({ s with host := [.reset] } : State).cfg.wf = true ∧ ({ s with host := [.reset] } : State).host = .reset :: []) := by
  decide

/-- Each of R10's inequalities broken at its boundary. -/
theorem witness_IllFormedConfigurationIsRefused :
    ∀ c ∈ [{ Config.standard with fidMin := 0x100 }, { Config.standard with fidMax := 0x100 },
           { Config.standard with didMin := 0x1B }, { Config.standard with didMax := 0x40 },
           { Config.standard with vidMin := 0xA9 }, { Config.standard with vidMax := 0x100 },
           { Config.standard with didMin := 0 }],
      ¬ (c.fidMin ≤ c.fidMax ∧ c.fidMax ≤ 0xFF ∧ c.didMin ≤ c.didMax ∧ c.didMax ≤ 0x3F ∧
          c.vidMin ≤ c.vidMax ∧ c.vidMax ≤ 0xFF ∧ 1 ≤ c.didMin) := by decide

theorem witness_ConfigurationAndCellsAreStable :
    let s := inPass .tscRdWait 0#64 .reference (okDraw 0#64)
    step s = .next (stepped s) ∧ s.seq.phase ≠ .tscWrWait ∧ s.seq.phase ≠ .bcWrWait ∧
    ∀ k a v rest, s.host ≠ .outsideWrite k a v :: rest :=
  ⟨rfl, by decide, by decide, fun _ _ _ _ h => by cases h⟩

theorem witness_OutsideWriteDoesNotReachTheSlot :
    let s := { start242 0#3 [] with host := [.outsideWrite 1 0xC0010064#32 7#64] }
    s.cfg.wf = true ∧ s.busy = false ∧ s.host = .outsideWrite 1 0xC0010064#32 7#64 :: [] ∧ Memory.wf s.env.msr = true := by
  decide

/-- The index at 7 and 8, the raw value below and at 2^63. -/
theorem witness_ConstructFillsOrEmptiesTheSlot :
    7 < (8#64).toNat ∧ (7#64).toNat ≤ 7 ∧ (0x7FFFFFFFFFFFFFFF#64).toNat < 2 ^ 63 ∧ 2 ^ 63 ≤ (0x8000000000000000#64).toNat := by decide

theorem witness_GetfidDeliversBitsSevenToZero : (heldAt 1#3).slot.valid = true ∧ State.reset.slot.valid = false := by decide
theorem witness_GetdidDeliversBitsThirteenToEight : (heldAt 1#3).slot.valid = true ∧ State.reset.slot.valid = false := by decide
theorem witness_GetvidDeliversBitsTwentyOneToFourteen : (heldAt 1#3).slot.valid = true ∧ State.reset.slot.valid = false := by
  decide
theorem witness_EncodeDeliversTheRawValue : (heldAt 1#3).slot.valid = true ∧ State.reset.slot.valid = false := by decide

theorem witness_SetfidCommitsWithinBounds :
    let s := heldAt 1#3
    s.slot.valid = true ∧ State.reset.slot.valid = false ∧ (0x0F#64).toNat < s.cfg.fidMin ∧ s.cfg.fidMin ≤ (0x10#64).toNat ∧
    (0xFF#64).toNat ≤ s.cfg.fidMax ∧ s.cfg.fidMax < (0x100#64).toNat := by decide
theorem witness_SetdidCommitsWithinBounds :
    let s := heldAt 1#3
    s.slot.valid = true ∧ State.reset.slot.valid = false ∧ (0x07#64).toNat < s.cfg.didMin ∧ s.cfg.didMin ≤ (0x08#64).toNat ∧
    (0x1A#64).toNat ≤ s.cfg.didMax ∧ s.cfg.didMax < (0x1B#64).toNat := by decide
theorem witness_SetvidCommitsWithinBounds :
    let s := heldAt 1#3
    s.slot.valid = true ∧ State.reset.slot.valid = false ∧ (0x1F#64).toNat < s.cfg.vidMin ∧ s.cfg.vidMin ≤ (0x20#64).toNat ∧
    (0xA8#64).toNat ≤ s.cfg.vidMax ∧ s.cfg.vidMax < (0xA9#64).toNat := by decide

/-- Each setter at the upper end of its bounds. -/
theorem witness_SettersChangeOnlyTheirField :
    let s := heldAt 1#3
    s.cfg.wf = true ∧
    (exec (.setfid 0xFF#64) s = .next (left (.setfid 0xFF#64) s) ∧ (left (.setfid 0xFF#64) s).status = 0#8) ∧
    (exec (.setdid 0x1A#64) s = .next (left (.setdid 0x1A#64) s) ∧ (left (.setdid 0x1A#64) s).status = 0#8) ∧
    (exec (.setvid 0xA8#64) s = .next (left (.setvid 0xA8#64) s) ∧ (left (.setvid 0xA8#64) s).status = 0#8) :=
  ⟨by decide, ⟨rfl, by decide⟩, ⟨rfl, by decide⟩, ⟨rfl, by decide⟩⟩

theorem witness_ConstructThenEncodeGivesTheValueBack :
    let s := { State.reset with host := [.command (encode (.construct 7#64 0xFFFFFFFFFFFFFFFF#64)), .command (encode .encode)] }
    s.cfg.wf = true ∧ s.busy = false ∧ (7#64).toNat ≤ 7 ∧ (0xFFFFFFFFFFFFFFFF#64).getLsbD 63 = true ∧
    s.host = .command (encode (.construct 7#64 0xFFFFFFFFFFFFFFFF#64)) :: .command (encode .encode) :: [] := by decide

theorem witness_HeldRegisterStaysEnabled :
    let s := presented (encode (.setvid 0x40#64)) (heldAt 7#3)
    (s.slot.valid = true → s.slot.raw.getLsbD 63 = true) ∧ step s = .next (stepped s) ∧ (stepped s).slot.valid = true :=
  ⟨by decide, rfl, by decide⟩

/-- A run of two commands that changes two fields. -/
theorem witness_FieldsHoldConstructedOrCommittedValues :
    let s := { heldAt 1#3 with host := [.command (encode (.setfid 0xFF#64)), .command (encode (.setdid 0x1A#64))] }
    keepsRegister s.host = true ∧ s.slot.valid = true ∧ runsTo 2 s (after 2 s) ∧ (after 2 s).slot.raw = 0x8000000000121AFF#64 :=
  ⟨by decide, by decide, rfl, by decide⟩

/-- The operands of RATIO and FREQ at the ends of each clause. -/
theorem witness_RatioDeliversTheExactQuotient :
    0xFF < (0x100#64).toNat ∧ (0xFF#64).toNat ≤ 0xFF ∧ (0#64).toNat = 0 ∧ 1 ≤ (1#64).toNat ∧ (1#64).toNat ≤ 0xFF := by decide
theorem witness_FreqDeliversTheExactQuotient :
    0xFF < (0x100#64).toNat ∧ (0xFF#64).toNat ≤ 0xFF ∧ (0#64).toNat = 0 ∧ 1 ≤ (1#64).toNat ∧ (1#64).toNat ≤ 0xFF := by decide
theorem witness_VcoreDeliversSignedMicrovolts : 0xFF < (0x100#64).toNat ∧ (0xFF#64).toNat ≤ 0xFF := by decide

/-- An empty slot, a divisor of 0 and one of 1. -/
theorem witness_RatiorDeliversTheSlotsQuotient :
    State.reset.slot.valid = false ∧
    (heldRaw 0x8000000000000000#64).slot.valid = true ∧ (heldRaw 0x8000000000000000#64).slot.raw.toNat / 2 ^ 8 % 2 ^ 6 = 0 ∧
    (heldRaw 0x8000000000000100#64).slot.valid = true ∧ (heldRaw 0x8000000000000100#64).slot.raw.toNat / 2 ^ 8 % 2 ^ 6 ≠ 0 := by
  decide
theorem witness_FreqrDeliversTheSlotsQuotient :
    State.reset.slot.valid = false ∧
    (heldRaw 0x8000000000000000#64).slot.valid = true ∧ (heldRaw 0x8000000000000000#64).slot.raw.toNat / 2 ^ 8 % 2 ^ 6 = 0 ∧
    (heldRaw 0x8000000000003F00#64).slot.valid = true ∧ (heldRaw 0x8000000000003F00#64).slot.raw.toNat / 2 ^ 8 % 2 ^ 6 ≠ 0 := by
  decide
theorem witness_VcorerDeliversTheSlotsMicrovolts : (heldAt 1#3).slot.valid = true ∧ State.reset.slot.valid = false := by decide
theorem witness_DescribeDeliversTheSnapshot :
    State.reset.slot.valid = false ∧
    (heldRaw 0x8000000000000000#64).slot.valid = true ∧ (heldRaw 0x8000000000000000#64).slot.raw.toNat / 2 ^ 8 % 2 ^ 6 = 0 ∧
    (heldRaw 0x8000000000000100#64).slot.valid = true ∧ (heldRaw 0x8000000000000100#64).slot.raw.toNat / 2 ^ 8 % 2 ^ 6 ≠ 0 := by
  decide

theorem witness_DerivedCommandsObeyTheirLaws :
    let s := heldAt 1#3
    (0xFF#64).toNat ≤ 0xFF ∧ 1 ≤ (1#64).toNat ∧ (1#64).toNat ≤ 0xFF ∧ (0xFE#64).toNat < 0xFF ∧ s.slot.valid = true ∧
    exec (.ratio 0xFF#64 1#64) s = .next (left (.ratio 0xFF#64 1#64) s) ∧
    exec (.freq 0xFF#64 1#64) s = .next (left (.freq 0xFF#64 1#64) s) ∧
    exec .getfid s = .next (left .getfid s) ∧ exec .getdid s = .next (left .getdid s) ∧
    exec .getvid s = .next (left .getvid s) ∧
    exec (.vcore 0xFE#64) s = .next (left (.vcore 0xFE#64) s) ∧
    exec (.vcore (0xFE#64 + 1#64)) s = .next (left (.vcore (0xFE#64 + 1#64)) s) :=
  ⟨by decide, by decide, by decide, by decide, by decide, rfl, rfl, rfl, rfl, rfl, rfl, rfl⟩

theorem witness_AddrforMapsTheIndex : 7 < (8#64).toNat ∧ (7#64).toNat ≤ 7 := by decide

/-- Every value of the guard, and both readings of the waiting step with both answers. -/
theorem witness_ChkplatAsksOnceAndLatches :
    (State.reset.guard ≠ 1#2 ∧ State.reset.guard ≠ 2#2) ∧ ({ State.reset with guard := 1#2 } : State).guard = 1#2 ∧
    ({ State.reset with guard := 2#2 } : State).guard = 2#2 ∧
    (∀ b : Bool, waiting (inPlat .free b) .platWait ⟨b, none, 0#64, false⟩ [] ∧
      waiting (inPlat .reference b) .platWait ⟨b, none, 0#64, false⟩ [] ∧ (inPlat .reference b).env.supported = b) ∧
    (let s := presented (encode .chkplat) { State.reset with guard := 2#2 };
      (∀ rest, s.host ≠ .reset :: rest) ∧ step s = .next (stepped s) ∧ s.guard ≠ 0#2) := by
  refine ⟨by decide, by decide, by decide, fun b => ?_, fun _ h => (by cases h), rfl, by decide⟩
  exact ⟨⟨rfl, rfl, rfl, rfl, rfl⟩, ⟨rfl, rfl, rfl, rfl, rfl⟩, rfl⟩

theorem witness_ApplyChecksThenLaunches :
    State.reset.guard = 0#2 ∧ ({ heldAt 7#3 with guard := 2#2 } : State).guard = 2#2 ∧
    (({ State.reset with guard := 1#2 } : State).guard = 1#2 ∧ ({ State.reset with guard := 1#2 } : State).slot.valid = false) ∧
    (({ heldAt 7#3 with guard := 1#2 } : State).guard = 1#2 ∧ ({ heldAt 7#3 with guard := 1#2 } : State).slot.valid = true) := by
  decide

/-- An error, and the counts 0, 1, MASK_WIDTH and MASK_WIDTH + 1. -/
theorem witness_TopologyAnswerSetsTheCount :
    waiting (inTopo true 1#64 (some 0x57#32)) .topoWait ⟨true, some 0x57#32, 0#64, false⟩ [] ∧
    (∀ n ∈ [0#64, 1#64, 64#64, 65#64],
      waiting (inTopo false n none) .topoWait ⟨true, none, 0#64, false⟩ [] ∧
      carried (inTopo false n none) ⟨true, none, 0#64, false⟩ (inTopo false n none).env.nHw = n) ∧
    1 ≤ (1#64).toNat ∧ (64#64).toNat ≤ Config.standard.maskWidth ∧ Config.standard.maskWidth < (65#64).toNat := by
  refine ⟨⟨rfl, rfl, rfl, rfl, rfl⟩, fun n _ => ⟨⟨rfl, rfl, rfl, rfl, rfl⟩, rfl⟩, by decide, by decide, by decide⟩

theorem witness_HwcrReadSetsTheLockBit :
    waiting (inPass .tscRdWait 1#64 .reference (errDraw false)) .tscRdWait (errDraw false) [] ∧ (errDraw false).error = some 7#32 ∧
    waiting (inPass .tscRdWait 1#64 .reference (okDraw 0#64)) .tscRdWait (okDraw 0#64) [] ∧ (okDraw 0#64).error = none :=
  ⟨⟨rfl, rfl, rfl, rfl, rfl⟩, rfl, ⟨rfl, rfl, rfl, rfl, rfl⟩, rfl⟩

/-- An error, a first processor with one to follow, and a last one. -/
theorem witness_HwcrWriteGoesOnOrFails :
    waiting (inPass .tscWrWait 0#64 .reference (errDraw true)) .tscWrWait (errDraw true) [] ∧ (errDraw true).error = some 7#32 ∧
    (∀ k ∈ [0#64, 1#64], waiting (inPass .tscWrWait k .free (okDraw 0#64)) .tscWrWait (okDraw 0#64) []) ∧
    (okDraw 0#64).error = none ∧ (0#64).toNat + 1 < (2#64).toNat ∧ (2#64).toNat ≤ (1#64).toNat + 1 :=
  ⟨⟨rfl, rfl, rfl, rfl, rfl⟩, rfl, fun _ _ => ⟨rfl, rfl, rfl, rfl, rfl⟩, rfl, by decide, by decide⟩
theorem witness_BroadcastWriteGoesOnCompletesOrFails :
    waiting (inPass .bcWrWait 0#64 .reference (errDraw true)) .bcWrWait (errDraw true) [] ∧ (errDraw true).error = some 7#32 ∧
    (∀ k ∈ [0#64, 1#64], waiting (inPass .bcWrWait k .free (okDraw 0#64)) .bcWrWait (okDraw 0#64) []) ∧
    (okDraw 0#64).error = none ∧ (0#64).toNat + 1 < (2#64).toNat ∧ (2#64).toNat ≤ (1#64).toNat + 1 :=
  ⟨⟨rfl, rfl, rfl, rfl, rfl⟩, rfl, fun _ _ => ⟨rfl, rfl, rfl, rfl, rfl⟩, rfl, by decide, by decide⟩

/-- The invariant holds in a state inside each pass. -/
theorem inPass_read_inv : (inPass .tscRdWait 1#64 .reference (okDraw 0#64)).Inv := by
  constructor <;> first | decide | exact ⟨.ok, rfl⟩
theorem inPass_lock_inv : (inPass .tscWrWait 1#64 .reference (okDraw 0#64)).Inv := by
  constructor <;> first | decide | exact ⟨.ok, rfl⟩
theorem inPass_broadcast_inv : (inPass .bcWrWait 1#64 .reference (okDraw 0#64)).Inv := by
  constructor <;> first | decide | exact ⟨.ok, rfl⟩

theorem witness_EveryMsrRequestIsOneHot :
    (inPass .tscRdWait 1#64 .reference (okDraw 0#64)).Inv ∧
    outstanding (inPass .tscRdWait 1#64 .reference (okDraw 0#64)) = some (.read 0xC0010015#32 2) ∧
    (inPass .bcWrWait 1#64 .reference (okDraw 0#64)).Inv ∧
    outstanding (inPass .bcWrWait 1#64 .reference (okDraw 0#64)) = some (.write 0xC0010064#32 2 testR) :=
  ⟨inPass_read_inv, by decide, inPass_broadcast_inv, by decide⟩
theorem witness_OnlyHwcrAndPstateAddressesAreSent :
    (inPass .tscWrWait 1#64 .reference (okDraw 0#64)).Inv ∧
    outstanding (inPass .tscWrWait 1#64 .reference (okDraw 0#64)) = some (.write 0xC0010015#32 2 0x200010#64) :=
  ⟨inPass_lock_inv, by decide⟩

theorem witness_ReferenceWriteChangesOneCell :
    ∀ d ∈ [okDraw 0#64, errDraw true, errDraw false],
      let s := inPass .tscWrWait 1#64 .reference d
      s.env.reading = .reference ∧ Memory.wf s.env.msr = true ∧ waiting s s.seq.phase d [] ∧
      outstanding s = some (.write 0xC0010015#32 2 0x200010#64) ∧ step s = .next (stepped s) := by
  intro d hd
  refine ⟨rfl, by show Memory.wf env242.msr = true; decide, ⟨rfl, rfl, rfl, rfl, rfl⟩, rfl, ?_⟩
  simp only [List.mem_cons, List.not_mem_nil, or_false] at hd
  rcases hd with rfl | rfl | rfl <;> rfl
theorem witness_ReferenceReadReturnsTheCell :
    ∀ d ∈ [okDraw 0#64, errDraw false],
      let s := inPass .tscRdWait 1#64 .reference d
      s.env.reading = .reference ∧ waiting s s.seq.phase d [] ∧ outstanding s = some (.read 0xC0010015#32 2) ∧
      step s = .next (stepped s) := by
  intro d hd
  refine ⟨rfl, ⟨rfl, rfl, rfl, rfl, rfl⟩, rfl, ?_⟩
  simp only [List.mem_cons, List.not_mem_nil, or_false] at hd
  rcases hd with rfl | rfl <;> rfl

theorem witness_BusyStepsKeepTheSlot :
    let s := inPass .tscWrWait 0#64 .reference (okDraw 0#64)
    s.busy = true ∧ (∀ rest, s.host ≠ .reset :: rest) ∧ step s = .next (stepped s) ∧ s.seq.phase ≠ .platWait :=
  ⟨rfl, fun _ h => (by cases h), rfl, by decide⟩

/-- APPLY presented with answers to come, and with none. -/
theorem witness_ApplyIsTheSequentialProgram :
    presents (start242 0#3 (List.replicate 7 (okDraw 0#64))) (encode .apply) [.command (encode .encode)] ∧
    decode (encode .apply) = .legal .apply ∧
    (applyProgram (start242 0#3 (List.replicate 7 (okDraw 0#64)))).isSome = true ∧
    presents (start242 0#3 []) (encode .apply) [.command (encode .encode)] ∧ applyProgram (start242 0#3 []) = none :=
  ⟨⟨rfl, rfl, rfl, rfl⟩, by decide, by decide, ⟨rfl, rfl, rfl, rfl⟩, by decide⟩

/-- R242 completes after seven requests with status 0. -/
theorem witness_SuccessfulApplySendsExactlyItsRequests :
    let s := start242 0#3 (List.replicate 7 (okDraw 0#64))
    presents s (encode .apply) [.command (encode .encode)] ∧ decode (encode .apply) = .legal .apply ∧
    completesIn 7 s (after 8 s) ∧ (after 8 s).status = 0#8 ∧ s.env.reading = .reference ∧ Memory.wf s.env.msr = true ∧
    s.slot.index = 0#3 ∧ s.cfg.hwcrAddr ≠ 0xC0010064#32 := by
  refine ⟨⟨rfl, rfl, rfl, rfl⟩, by decide, ⟨rfl, by decide, fun m hm => ?_⟩, by decide, rfl, by decide, rfl, by decide⟩
  exact ⟨after (m + 1) (start242 0#3 (List.replicate 7 (okDraw 0#64))), by interval_cases m <;> rfl, by interval_cases m <;> rfl⟩

/-- The second HWCR write fails. -/
theorem witness_FailedApplyStopsAtTheFailure :
    let s := start242 0#3 [okDraw 0#64, okDraw 0#64, okDraw 0#64, okDraw 0#64, errDraw true]
    presents s (encode .apply) [.command (encode .encode)] ∧ decode (encode .apply) = .legal .apply ∧
    completesIn 5 s (after 6 s) ∧ (after 6 s).status = 0x07#8 := by
  refine ⟨⟨rfl, rfl, rfl, rfl⟩, by decide, ⟨rfl, by decide, fun m hm => ?_⟩, by decide⟩
  exact ⟨after (m + 1) (start242 0#3 [okDraw 0#64, okDraw 0#64, okDraw 0#64, okDraw 0#64, errDraw true]),
    by interval_cases m <;> rfl, by interval_cases m <;> rfl⟩

/-- The invariant holds where APPLY is presented. -/
theorem start242_inv : (start242 0#3 (List.replicate 7 (okDraw 0#64))).Inv := by
  constructor <;> first | decide | exact ⟨.ok, rfl⟩

/-- In the run of R242 the write to processor 1 of P-state register 0 is the last entry of the history. -/
theorem witness_TscLockPrecedesEveryBaseWrite :
    let s := start242 0#3 (List.replicate 7 (okDraw 0#64))
    s.Inv ∧ s.busy = false ∧ s.history = [] ∧ s.cfg.hwcrAddr ≠ 0xC0010064#32 ∧ runsTo 8 s (after 8 s) ∧
    (after 8 s).history = (after 7 s).history ++ .write 1 0xC0010064#32 testR (.ok ()) :: [] :=
  ⟨start242_inv, rfl, rfl, by decide, rfl, by decide⟩

/-- With MASK_WIDTH = 2, APPLY has exactly the seven answers it can need. -/
theorem witness_EveryCommandCompletesInBoundedSteps :
    let s := { start242 0#3 (List.replicate 7 (okDraw 0#64)) with cfg := { Config.standard with maskWidth := 2 } }
    presents (presented (encode .describe) (heldAt 1#3)) (encode .describe) [] ∧ decode (encode .describe) = .legal .describe ∧
    presents (presented (encode .chkplat) { State.reset with draws := [okDraw 0#64] }) (encode .chkplat) [] ∧
    decode (encode .chkplat) = .legal .chkplat ∧ 1 ≤ [okDraw 0#64].length ∧
    presents s (encode .apply) [.command (encode .encode)] ∧ decode (encode .apply) = .legal .apply ∧
    1 + 3 * s.cfg.maskWidth ≤ s.draws.length :=
  ⟨⟨rfl, rfl, rfl, rfl⟩, by decide, ⟨rfl, rfl, rfl, rfl⟩, by decide, by decide, ⟨rfl, rfl, rfl, rfl⟩, by decide, by decide⟩

theorem witness_EveryStepKeepsTheInvariant :
    (inPass .tscWrWait 1#64 .reference (okDraw 0#64)).Inv ∧
    step (inPass .tscWrWait 1#64 .reference (okDraw 0#64)) =
      .next (stepped (inPass .tscWrWait 1#64 .reference (okDraw 0#64))) :=
  ⟨inPass_lock_inv, rfl⟩
theorem witness_InvariantStatesAlwaysStep : (inPass .tscRdWait 1#64 .reference (okDraw 0#64)).Inv := inPass_read_inv

theorem witness_StatusChangesOnlyAtCompletion :
    let s := inPlat .reference false
    (∀ rest, s.host ≠ .reset :: rest) ∧ step s = .next (stepped s) ∧ (stepped s).status ≠ s.status :=
  ⟨fun _ h => (by cases h), rfl, by decide⟩

theorem witness_ErrorsArePrecise :
    let s := heldAt 1#3
    exec (.setfid 0x100#64) s = .next (left (.setfid 0x100#64) s) ∧ (left (.setfid 0x100#64) s).busy = false ∧
    (left (.setfid 0x100#64) s).status ≠ 0#8 :=
  ⟨rfl, by decide, by decide⟩

theorem witness_GuardGatesOnlyMsrAccess :
    Instr.encode ≠ .chkplat ∧ Instr.encode ≠ .apply ∧ exec .encode (heldAt 1#3) = .next (left .encode (heldAt 1#3)) :=
  ⟨by decide, by decide, rfl⟩

/-- An emptied slot, and a run that fills it again. -/
theorem witness_StaleSlotIsUnobservable :
    let s := { State.reset with host := [.command (encode .encode), .command (encode (.construct 1#64 testR))] }
    s.slot.valid = false ∧ runsTo 2 s (after 2 s) ∧ (after 2 s).slot.valid = true :=
  ⟨rfl, rfl, by decide⟩

theorem witness_DryRunSendsNoMsrRequest :
    let s := { State.reset with host := [.command (encode .chkplat)], draws := [okDraw 0#64] }
    s.busy = false ∧ s.history = [] ∧ dryRun s.host = true ∧ runsTo 2 s (after 2 s) ∧
    (after 2 s).history = [.plat false] :=
  ⟨rfl, rfl, by decide, rfl, by decide⟩

/-- The run of R242 in the reference environment. -/
theorem witness_ReferenceRunsAreFreeRuns :
    let s := start242 0#3 (List.replicate 7 (okDraw 0#64))
    s.env.reading = .reference ∧ runsTo 8 s (after 8 s) ∧ (after 8 s).history.length = 7 :=
  ⟨rfl, rfl, by decide⟩

end Sys2Proof.Machine
end

section
/-! PROOFS. The refusal of an ill-formed configuration (spec/00_scope.md R10). -/

namespace Sys2Proof.Machine

/-- The gate of `step`: no state runs under a configuration R10 rules out, whatever its slot, sequencer or host. -/
theorem step_refused_of_not_wf {s : State} (h : ¬ s.cfg.wf = true) : step s = .refused .configIllFormed :=
  if_neg h

/-- Settles O10. `Config.wf` implies R10's inequalities (`wf_bounds`), so breaking one of them closes the gate of `step`. -/
theorem illFormedConfigurationIsRefused : Obligations.IllFormedConfigurationIsRefused := by
  unfold Obligations.IllFormedConfigurationIsRefused
  constructor
  · intro s hbroken
    have hwf : ¬ s.cfg.wf = true := by
      intro h
      obtain ⟨hfid, hfidMax, hdid, hdidMax, hvid, hvidMax, hdidMin, -⟩ := wf_bounds h
      exact hbroken ⟨hfid, hfidMax, hdid, hdidMax, hvid, hvidMax, hdidMin⟩
    exact step_refused_of_not_wf hwf
  · decide

end Sys2Proof.Machine
end

section
/-! PROOFS. What the outcomes of `exec` (`Ends`, `Launches`) and of a waiting step (`Advances`) leave and establish: the slot
(spec/10_state.md R22), STATUS and ERR (R27, R34, R35), the environment (R39). Said once per outcome, for the step lemmas. -/

namespace Sys2Proof.Machine

/-- `OK` is the only status with code 0 (spec/60_exceptions.md R270). -/
theorem statusCode_eq_zero_iff (st : Status) : statusCode st = 0#8 ↔ st = .ok := by
  cases st <;> decide

/-! ### The slot -/

/-- R22: a held register has its enabled bit set. -/
def Slot.Enabled (sl : Slot) : Prop := sl.valid = true → sl.raw.getLsbD 63 = true

/-- A setter within its bounds does not reach the enabled bit: every field lies below bit 22 (R33). -/
theorem setBits_enabledBit {c : Config} (hc : c.wf = true) {f : Field} {v : Word} (hv : v.toNat ≤ fieldMax c f) (raw : Word) :
    (setBits raw (fieldLo f) (fieldWidth f) v).getLsbD 63 = raw.getLsbD 63 := by
  have hfit : v.toNat < 2 ^ fieldWidth f := Nat.lt_of_le_of_lt hv (fieldMax_lt hc f)
  have hout : ¬ (fieldLo f ≤ 63 ∧ 63 < fieldLo f + fieldWidth f) := by cases f <;> decide
  rw [setBits_getLsbD raw f v hfit 63 (by decide), if_neg hout]

theorem Ends.slot_enabled {s t : State} (h : Ends s t) (hc : s.cfg.wf = true) (hs : s.slot.Enabled) : t.slot.Enabled := by
  cases h with
  | raised => exact hs
  | emptied => exact fun hv => absurd hv Bool.false_ne_true
  | results => exact hs
  | filled index raw he => exact fun _ => he
  | updated f v hv _ hmax => exact fun _ => (setBits_enabledBit hc hmax s.slot.raw).trans (hs hv)

theorem Launches.slot {i : Instr} {s t : State} (h : Launches s i t) : t.slot = s.slot := by
  cases h <;> rfl

theorem Advances.slot {d : Draw} {s t : State} (h : Advances d s t) : t.slot = s.slot := by
  cases h <;> rfl

theorem deliverFromSlot_slot (f : Word → Word) (s : State) : (deliverFromSlot f s).slot = s.slot := by
  obtain ⟨_, he⟩ | ⟨_, he⟩ := deliverFromSlot_cases f s <;> simp [he]

theorem updateField_slot_valid (f : Field) (v : Word) (s : State) : (updateField f v s).slot.valid = s.slot.valid := by
  obtain ⟨_, he⟩ | ⟨_, _, _, _, _, he⟩ | ⟨_, _, _, he⟩ := updateField_cases f v s <;> simp [he]

theorem deliverQuotient_slot (scale : Nat) (fid did : Word) (s : State) : (deliverQuotient scale fid did s).slot = s.slot := by
  obtain ⟨_, he⟩ | ⟨_, he⟩ := deliverQuotient_cases scale fid did s <;> simp [he]

theorem staticQuotient_slot (scale : Nat) (fid did : Word) (s : State) : (staticQuotient scale fid did s).slot = s.slot := by
  simp only [staticQuotient]
  split
  · rfl
  · split
    · rfl
    · exact deliverQuotient_slot scale fid did s.clearErr

theorem slotQuotient_slot (scale : Nat) (s : State) : (slotQuotient scale s).slot = s.slot := by
  simp only [slotQuotient]
  split
  · exact deliverQuotient_slot scale _ _ s.clearErr
  · rfl

/-- A command that is no CONSTRUCT neither fills nor empties the slot; a setter writes its raw value only. -/
theorem exec_slot_valid {i : Instr} {s t : State} (h : exec i s = .next t) :
    t.slot.valid = s.slot.valid ∨ ∃ index raw, i = .construct index raw := by
  cases i with
  | construct index raw => exact .inr ⟨index, raw, rfl⟩
  | getfid | getdid | getvid | encode | vcorer => cases h; exact .inl (congrArg Slot.valid (deliverFromSlot_slot _ s))
  | setfid v | setdid v | setvid v => cases h; exact .inl (updateField_slot_valid _ v s)
  | ratio fid did | freq fid did => cases h; exact .inl (congrArg Slot.valid (staticQuotient_slot _ fid did s))
  | ratior | freqr => cases h; exact .inl (congrArg Slot.valid (slotQuotient_slot _ s))
  | chkplat =>
    simp only [exec, execChkplat] at h
    split at h
    · cases h; exact .inl rfl
    · split at h <;> (cases h; exact .inl rfl)
  | vcore vid =>
    simp only [exec, execVcore] at h
    split at h <;> (cases h; exact .inl rfl)
  | describe =>
    simp only [exec, execDescribe] at h
    split at h
    · cases h; exact .inl rfl
    · split at h <;> (cases h; exact .inl rfl)
  | addrfor index =>
    simp only [exec, execAddrfor] at h
    split at h <;> (cases h; exact .inl rfl)
  | apply =>
    simp only [exec, execApply] at h
    split at h
    · cases h; exact .inl rfl
    · split at h
      · cases h; exact .inl rfl
      · split at h <;> (cases h; exact .inl rfl)

/-! ### STATUS -/

theorem Ends.busy {s t : State} (h : Ends s t) : t.busy = false := by
  cases h <;> rfl

theorem Launches.busy {i : Instr} {s t : State} (h : Launches s i t) : t.busy = true := by
  cases h <;> rfl

theorem Launches.status {i : Instr} {s t : State} (h : Launches s i t) : t.status = s.status := by
  cases h <;> rfl

/-- A command in progress writes no STATUS (R27). -/
theorem Advances.status_of_busy {d : Draw} {s t : State} (h : Advances d s t) (hb : t.busy = true) : t.status = s.status := by
  cases h with
  | topoLock | topoBroadcast | readOk | lockNext | lockLast | broadcastNext => rfl
  | platSupported | platUnsupported | topoError | topoZero | topoTooMany | readError | lockError | broadcastError |
    broadcastLast => exact absurd hb Bool.false_ne_true

theorem exec_status_of_busy {i : Instr} {s t : State} (h : exec i s = .next t) (hb : t.busy = true) : t.status = s.status := by
  obtain he | hl := exec_cases h
  · exact absurd hb (by simp [he.busy])
  · exact hl.status

/-! ### The environment -/

/-- A WRITE changes nothing of the environment but its cells (R39, spec/20_memory.md R64). -/
theorem envAfterWrite_eq_cells (e : Env) (d : Draw) (a : MsrAddr) (m : Nat) (v : Word) :
    ∃ cells, envAfterWrite e d a m v = { e with msr := cells } := by
  obtain h | ⟨_, h⟩ := envAfterWrite_cases e d a m v
  · exact ⟨e.msr, h⟩
  · exact ⟨_, h⟩

theorem envAfterWrite_msr_wf {e : Env} (h : Memory.wf e.msr = true) (d : Draw) (a : MsrAddr) (m : Nat) (v : Word) :
    Memory.wf (envAfterWrite e d a m v).msr = true := by
  obtain he | ⟨_, he⟩ := envAfterWrite_cases e d a m v
  · rwa [he]
  · rw [he]; exact writeMsr_wf _ a v h

theorem Advances.env_eq_cells {d : Draw} {s t : State} (h : Advances d s t) : ∃ cells, t.env = { s.env with msr := cells } := by
  cases h with
  | lockError | lockNext | lockLast | broadcastError | broadcastNext | broadcastLast => exact envAfterWrite_eq_cells ..
  | platSupported | platUnsupported | topoError | topoZero | topoTooMany | topoLock | topoBroadcast | readError | readOk =>
    exact ⟨s.env.msr, rfl⟩

/-- Outside the two WRITE phases a waiting step leaves the environment. -/
theorem Advances.env_of_no_write {d : Draw} {s t : State} (h : Advances d s t) (hlock : s.seq.phase ≠ .tscWrWait)
    (hbroadcast : s.seq.phase ≠ .bcWrWait) : t.env = s.env := by
  cases h with
  | lockError _ hp | lockNext hp | lockLast hp => exact absurd hp hlock
  | broadcastError _ hp | broadcastNext hp | broadcastLast hp => exact absurd hp hbroadcast
  | platSupported | platUnsupported | topoError | topoZero | topoTooMany | topoLock | topoBroadcast | readError | readOk => rfl

/-- Outside the two WRITE phases no WRITE is outstanding (spec/43_apply.md R230). -/
theorem outstanding_ne_write {s : State} (hlock : s.seq.phase ≠ .tscWrWait) (hbroadcast : s.seq.phase ≠ .bcWrWait)
    (a : MsrAddr) (m : Nat) (v : Word) : outstanding s ≠ some (.write a m v) := by
  cases hp : s.seq.phase with
  | tscWrWait => exact absurd hp hlock
  | bcWrWait => exact absurd hp hbroadcast
  | idle | platWait | topoWait | tscRdWait => simp [outstanding, hp]

/-- A reset that abandons no WRITE leaves the environment (spec/70_reset_and_hazards.md R310). -/
theorem applyReset_env_of_no_write {s : State} (hlock : s.seq.phase ≠ .tscWrWait) (hbroadcast : s.seq.phase ≠ .bcWrWait) :
    (applyReset s).env = s.env := by
  simp only [applyReset, State.resetBlock_env, abandonRequest]
  split
  · rename_i r d rest hr _
    cases r with
    | plat | topo | read => rfl
    | write a m v => exact absurd hr (outstanding_ne_write hlock hbroadcast a m v)
  · rfl

theorem exec_env {i : Instr} {s t : State} (h : exec i s = .next t) : t.env = s.env := by
  obtain ⟨u, hu, _, henv, _⟩ := exec_frame i s
  cases h.symm.trans hu
  exact henv

end Sys2Proof.Machine
end

section
/-! PROOFS. The frames of one step: the configuration and the cells (spec/10_state.md R20, R39), the slot (R22), STATUS (R27),
and what a command that ends with an error leaves (R34). -/

namespace Sys2Proof.Machine

/-- `answerStep_advances` in the state that `Moves.answered` names. -/
theorem answered_advances {s : State} (hp : s.seq.phase ≠ .idle) (d : Draw) (host : List HostMove) (draws : List Draw) :
    Advances d { s with host := host, draws := draws } (answerStep d { s with host := host, draws := draws }) :=
  answerStep_advances hp

/-- R39: of the environment a step changes the cells only. -/
theorem step_env_eq_cells {s t : State} (h : step s = .next t) : ∃ cells, t.env = { s.env with msr := cells } := by
  obtain ⟨_, hm⟩ := step_moves h
  cases hm with
  | reset rest =>
    obtain ⟨cells, _, he, _⟩ := applyReset_eq { s with host := rest }
    exact ⟨cells, by rw [he]⟩
  | command _ _ _ _ _ _ _ he =>
    have henv := exec_env he
    exact ⟨s.env.msr, henv⟩
  | outside => exact ⟨_, rfl⟩
  | answered left d rest _ hp =>
    exact (answered_advances hp d left rest).env_eq_cells
  | illegal | poll | idle | unanswered => exact ⟨s.env.msr, rfl⟩

/-- R39: a step with no WRITE outstanding, and no write of another agent next, leaves the environment. -/
theorem step_env_of_no_write {s t : State} (h : step s = .next t) (hlock : s.seq.phase ≠ .tscWrWait)
    (hbroadcast : s.seq.phase ≠ .bcWrWait) (hout : ∀ k a v rest, s.host ≠ .outsideWrite k a v :: rest) : t.env = s.env := by
  obtain ⟨_, hm⟩ := step_moves h
  cases hm with
  | reset rest => exact applyReset_env_of_no_write (s := { s with host := rest }) hlock hbroadcast
  | command _ _ _ _ _ _ _ he =>
    have henv := exec_env he
    exact henv
  | outside k a v rest _ hh => exact absurd hh (hout k a v rest)
  | answered left d rest _ hp =>
    exact (answered_advances hp d left rest).env_of_no_write hlock hbroadcast
  | illegal | poll | idle | unanswered => rfl

/-- Settles O11: the configuration by `step_cfg`, the environment by the two lemmas above. -/
theorem configurationAndCellsAreStable : Obligations.ConfigurationAndCellsAreStable := by
  unfold Obligations.ConfigurationAndCellsAreStable
  intro s t h
  obtain ⟨cells, he⟩ := step_env_eq_cells h
  refine ⟨step_cfg h, by rw [he], by rw [he], by rw [he], fun hlock hbroadcast hout => ?_⟩
  rw [step_env_of_no_write h hlock hbroadcast hout]

/-- R22 as a step lemma: the enabled bit is checked when the slot is filled, and no setter reaches it. -/
theorem step_slot_enabled {s t : State} (h : step s = .next t) (hs : s.slot.Enabled) : t.slot.Enabled := by
  obtain ⟨hc, hm⟩ := step_moves h
  cases hm with
  | reset => exact fun hv => absurd hv Bool.false_ne_true
  | command _ _ _ _ _ _ _ he =>
    obtain hend | hlaunch := exec_cases he
    · exact hend.slot_enabled hc hs
    · rwa [hlaunch.slot]
  | answered left d rest _ hp =>
    rwa [(answered_advances hp d left rest).slot]
  | illegal | outside | poll | idle | unanswered => exact hs

/-- Settles O23: `step_slot_enabled` for bit 63; an index of three bits is at most 7. -/
theorem heldRegisterStaysEnabled : Obligations.HeldRegisterStaysEnabled := by
  unfold Obligations.HeldRegisterStaysEnabled
  refine ⟨fun hv => absurd hv Bool.false_ne_true, fun s t hs h hv => ⟨step_slot_enabled h hs hv, ?_⟩⟩
  exact Nat.le_of_lt_succ t.slot.index.isLt

/-- Settles O53: a launch and a waiting step that goes on keep STATUS, so a step that changes it ends a command. -/
theorem statusChangesOnlyAtCompletion : Obligations.StatusChangesOnlyAtCompletion := by
  unfold Obligations.StatusChangesOnlyAtCompletion
  intro s t hreset h hne
  obtain ⟨_, hm⟩ := step_moves h
  cases hm with
  | reset rest hh => exact absurd hh (hreset rest)
  | command c _ rest _ _ hh _ he =>
    have hkeep := exec_status_of_busy he
    exact ⟨Bool.eq_false_iff.mpr fun hb => hne (hkeep hb), .inr ⟨c, rest, hh⟩⟩
  | illegal c _ rest _ hh => exact ⟨rfl, .inr ⟨c, rest, hh⟩⟩
  | answered left d rest hb hp =>
    have hkeep := (answered_advances hp d left rest).status_of_busy
    exact ⟨Bool.eq_false_iff.mpr fun hb' => hne (hkeep hb'), .inl hb⟩
  | outside | poll | idle | unanswered => exact absurd rfl hne

/-- Settles O54: of the outcomes of `exec` only `raised` and `emptied` end with a status other than 0, and the second is
CONSTRUCT's, or finds the slot empty (`exec_slot_valid`). -/
theorem errorsArePrecise : Obligations.ErrorsArePrecise := by
  unfold Obligations.ErrorsArePrecise
  intro i s t h hbusy hstatus
  obtain hend | hlaunch := exec_cases h
  · cases hend with
    | raised st info => exact ⟨rfl, rfl, rfl, .inl rfl⟩
    | emptied st info => exact ⟨rfl, rfl, rfl, (exec_slot_valid h).imp_right fun hi => ⟨hi, rfl⟩⟩
    | results | filled | updated => exact absurd rfl hstatus
  · exact absurd hbusy (by simp [hlaunch.busy])

end Sys2Proof.Machine
end

section
/-! PROOFS. The values after reset (spec/10_state.md R42) and the invariant of the block: reset establishes `State.Inv`, and
every step keeps it. -/

namespace Sys2Proof.Machine

/-- Settles O8: `State.reset` is R42's table. -/
theorem resetValuesOfBlockRegisters : Obligations.ResetValuesOfBlockRegisters := by
  unfold Obligations.ResetValuesOfBlockRegisters
  exact ⟨rfl, rfl, rfl, rfl, rfl, rfl, rfl, rfl⟩

/-! ### Idle states of the invariant -/

/-- The clauses of `State.Inv` that speak neither of the sequencer nor of STATUS and ERR. -/
structure State.Standing (s : State) : Prop where
  cfg_wf : s.cfg.wf = true
  slot_enabled : s.slot.Enabled
  guard_legal : s.guard ≠ 3#2
  msr_wf : Memory.wf s.env.msr = true

theorem State.Inv.standing {s : State} (h : s.Inv) : s.Standing :=
  ⟨h.cfg_wf, h.slot_enabled, h.guard_legal, h.msr_wf⟩

/-- In an idle state every clause on a phase is void. -/
theorem State.Standing.inv_of_idle {s : State} (h : s.Standing) (hbusy : s.busy = false) (hphase : s.seq.phase = .idle)
    (hstatus : ∃ st, s.status = statusCode st) (hbound : s.err.bound ≠ 3#2) (hok : s.status = 0#8 → s.err = ErrInfo.zero) :
    s.Inv where
  cfg_wf := h.cfg_wf
  slot_enabled := h.slot_enabled
  guard_legal := h.guard_legal
  msr_wf := h.msr_wf
  status_legal := hstatus
  err_bound := hbound
  ok_clear := fun _ => hok
  busy_phase := by simp [hbusy, hphase]
  err_clear := by simp [hbusy]
  plat_unchecked := by simp [hphase]
  apply_guarded := by simp [hphase, applyPhase]
  apply_target := by simp [hphase, applyPhase]
  pass_range := by simp [hphase, passPhase]
  lock_index := by simp [hphase, lockPhase]
  lock_bit := by simp [hphase]

theorem State.Standing.inv_complete {s : State} (h : s.Standing) (herr : s.err = ErrInfo.zero) : s.complete.Inv := by
  have hs : s.complete.Standing := ⟨h.cfg_wf, h.slot_enabled, h.guard_legal, h.msr_wf⟩
  exact hs.inv_of_idle rfl rfl ⟨.ok, rfl⟩ (by simp [herr, ErrInfo.zero]) fun _ => herr

theorem State.Standing.inv_raise {s : State} (h : s.Standing) {st : Status} {info : ErrInfo} (hst : st ≠ .ok)
    (hbound : info.bound ≠ 3#2) : (s.raise st info).Inv := by
  have hs : (s.raise st info).Standing := ⟨h.cfg_wf, h.slot_enabled, h.guard_legal, h.msr_wf⟩
  exact hs.inv_of_idle rfl rfl ⟨st, rfl⟩ hbound fun hz => absurd ((statusCode_eq_zero_iff st).mp hz) hst

/-- A reset keeps the configuration and the canonical form of the cells, and these are all the invariant asks of it. -/
theorem applyReset_inv {s : State} (hc : s.cfg.wf = true) (hm : Memory.wf s.env.msr = true) : (applyReset s).Inv := by
  obtain ⟨cells, ds, he, hcells⟩ := applyReset_eq s
  have hwf : Memory.wf cells = true := by
    obtain rfl | ⟨k, a, v, rfl⟩ := hcells
    · exact hm
    · exact writeMsr_wf k a v hm
  rw [he]
  exact State.Standing.inv_of_idle ⟨hc, fun hv => absurd hv Bool.false_ne_true, by simp [State.reset], hwf⟩ rfl rfl
    ⟨.ok, rfl⟩ (by simp [State.reset, ErrInfo.zero]) fun _ => rfl

/-- Settles O51: the reset state is idle with status 0, cleared errors, an empty slot and no cell. -/
theorem resetSatisfiesTheInvariant : Obligations.ResetSatisfiesTheInvariant := by
  unfold Obligations.ResetSatisfiesTheInvariant
  exact applyReset_inv (s := State.reset) (by decide) reset_msr_wf

/-- A command that ends at once ends in a state of the invariant. -/
theorem Ends.inv {s t : State} (h : Ends s t) (hs : s.Standing) : t.Inv := by
  have hslot := h.slot_enabled hs.cfg_wf hs.slot_enabled
  cases h with
  | raised st info hst hb => exact hs.inv_raise hst hb
  | emptied st info hst hb =>
    exact State.Standing.inv_raise (s := s.emptySlot) ⟨hs.cfg_wf, hslot, hs.guard_legal, hs.msr_wf⟩ hst hb
  | results | filled | updated =>
    exact State.Standing.inv_complete ⟨hs.cfg_wf, hslot, hs.guard_legal, hs.msr_wf⟩ rfl

/-! ### Busy states of the invariant -/

theorem guard_cases (g : BitVec 2) : g = guardUnchecked ∨ g = guardSupported ∨ g = guardUnsupported ∨ g = 3#2 := by
  revert g
  decide

/-- A launch enters PLAT_WAIT with an unchecked guard, or TOPO_WAIT with a supported one, a held slot and the slot's target
(spec/43_apply.md R221, R225, R226). -/
theorem Launches.inv {i : Instr} {s t : State} (h : Launches s i t) (hs : s.Inv) : t.Inv := by
  have hguard := guard_cases s.guard
  have hlegal := hs.guard_legal
  cases h with
  | chkplat hnot1 hnot2 =>
    exact {
      hs with
      busy_phase := by simp
      err_bound := by simp [ErrInfo.zero]
      err_clear := fun _ => rfl
      ok_clear := fun _ _ => rfl
      plat_unchecked := fun _ => by simpa [hnot1, hnot2, hlegal] using hguard
      apply_guarded := by simp [applyPhase]
      apply_target := by simp [applyPhase]
      pass_range := by simp [passPhase]
      lock_index := by simp [lockPhase]
      lock_bit := by simp }
  | apply hnot0 hnot2 hvalid =>
    exact {
      hs with
      busy_phase := by simp [launchSeq]
      err_bound := by simp [ErrInfo.zero]
      err_clear := fun _ => rfl
      ok_clear := fun _ _ => rfl
      plat_unchecked := by simp [launchSeq]
      apply_guarded := fun _ => ⟨by simpa [hnot0, hnot2, hlegal] using hguard, hvalid⟩
      apply_target := fun _ => ⟨rfl, rfl, rfl⟩
      pass_range := by simp [launchSeq, passPhase]
      lock_index := by simp [launchSeq, lockPhase]
      lock_bit := by simp [launchSeq] }

/-- No clause speaks of the history. -/
theorem State.Inv.record {s : State} (h : s.Inv) (e : Event) : (s.record e).Inv := { h with }

/-- No clause speaks of the inputs of the outside agents. -/
theorem State.Inv.withInputs {s : State} (h : s.Inv) (host : List HostMove) (draws : List Draw) :
    ({ s with host := host, draws := draws } : State).Inv := { h with }

/-- Of the environment the invariant asks the canonical form of the cells. -/
theorem State.Inv.withEnv {s : State} (h : s.Inv) {e : Env} (he : Memory.wf e.msr = true) : ({ s with env := e } : State).Inv :=
  { h with msr_wf := he }

theorem State.Inv.busy_of_waiting {s : State} (h : s.Inv) {p : Phase} (hp : s.seq.phase = p) (hne : p ≠ .idle) :
    s.busy = true :=
  h.busy_phase.mpr (hp ▸ hne)

/-- An APPLY goes on in a phase of its passes: what the new sequencer registers must meet (R31, R238, R246, R247). -/
theorem State.Inv.setSeq_pass {s : State} (h : s.Inv) {q : Seq} (hfrom : applyPhase s.seq.phase = true)
    (hto : passPhase q.phase = true) (htarget : q.addr = s.seq.addr ∧ q.value = s.seq.value ∧ q.tsc = s.seq.tsc)
    (hrange : q.k.toNat < q.n.toNat ∧ q.n.toNat ≤ s.cfg.maskWidth) (hindex : lockPhase q.phase = true → s.slot.index = 0#3)
    (hbit : q.phase = .tscWrWait → q.hw.getLsbD 21 = true) : (s.setSeq q).Inv := by
  have hbusy : s.busy = true := h.busy_phase.mpr fun hp => by simp [hp, applyPhase] at hfrom
  have hidle : q.phase ≠ .idle := fun hp => by simp [hp, passPhase] at hto
  have hplat : q.phase ≠ .platWait := fun hp => by simp [hp, passPhase] at hto
  obtain ⟨haddr, hvalue, htsc⟩ := htarget
  exact {
    h with
    busy_phase := ⟨fun _ => hidle, fun _ => hbusy⟩
    plat_unchecked := fun hp => absurd hp hplat
    apply_guarded := fun _ => h.apply_guarded hfrom
    apply_target := fun _ =>
      have ⟨ha, hv, ht⟩ := h.apply_target hfrom
      ⟨haddr.trans ha, hvalue.trans hv, htsc.trans ht⟩
    pass_range := fun _ => hrange
    lock_index := hindex
    lock_bit := hbit }

/-- R238: the value to be written back has the TSC-lock bit set. -/
theorem withTscLock_getLsbD_lockBit (v : Word) : (withTscLock v).getLsbD 21 = true := by
  simp [withTscLock, tscLockBit]

/-- `seq.k + 1` does not wrap below `seq.N`. -/
theorem toNat_succ_of_lt {k n : Word} (h : k.toNat + 1 < n.toNat) : (k + 1#64).toNat = k.toNat + 1 :=
  BitVec.toNat_add_of_lt (h.trans n.isLt)

/-- Each answer leads from a state of the invariant to one: to an idle state when it ends the command, else to a pass. -/
theorem Advances.inv {d : Draw} {s t : State} (h : Advances d s t) (hs : s.Inv) : t.Inv := by
  have hwritten (a : MsrAddr) (v : Word) : Memory.wf (envAfter d s a v).msr = true :=
    envAfterWrite_msr_wf hs.msr_wf d a _ v
  cases h with
  | platSupported hp =>
    exact State.Standing.inv_complete ⟨hs.cfg_wf, hs.slot_enabled, by simp [guardSupported], hs.msr_wf⟩
      (hs.err_clear (hs.busy_of_waiting hp (by decide)))
  | platUnsupported =>
    have hlatched : ((s.record (.plat false)).setGuard guardUnsupported).Standing :=
      ⟨hs.cfg_wf, hs.slot_enabled, by simp [guardUnsupported], hs.msr_wf⟩
    exact hlatched.inv_raise (by decide) (by decide)
  | topoError | topoZero | topoTooMany | readError =>
    exact (hs.record _).standing.inv_raise (by decide) (by simp [ErrInfo.zero])
  | topoLock n hp _ hne hle ht =>
    have hindex : s.slot.index = 0#3 := by simpa [ht] using (hs.apply_target (by rw [hp]; rfl)).2.2
    exact (hs.record _).setSeq_pass (by simp [hp, applyPhase]) rfl ⟨rfl, rfl, rfl⟩ ⟨BitVec.toNat_pos_of_ne_zero hne, hle⟩
      (fun _ => hindex) (by simp)
  | topoBroadcast n hp _ hne hle =>
    exact (hs.record _).setSeq_pass (by simp [hp, applyPhase]) rfl ⟨rfl, rfl, rfl⟩ ⟨BitVec.toNat_pos_of_ne_zero hne, hle⟩
      (by simp [lockPhase]) (by simp)
  | readOk v hp =>
    exact (hs.record _).setSeq_pass (by simp [hp, applyPhase]) rfl ⟨rfl, rfl, rfl⟩ (hs.pass_range (by rw [hp]; rfl))
      (fun _ => hs.lock_index (by rw [hp]; rfl)) (fun _ => withTscLock_getLsbD_lockBit v)
  | lockError | broadcastError =>
    exact ((hs.withEnv (hwritten _ _)).record _).standing.inv_raise (by decide) (by simp [ErrInfo.zero])
  | lockNext hp _ hk =>
    obtain ⟨_, hle⟩ := hs.pass_range (by rw [hp]; rfl)
    exact ((hs.withEnv (hwritten _ _)).record _).setSeq_pass (by simp [hp, applyPhase]) rfl ⟨rfl, rfl, rfl⟩
      ⟨(toNat_succ_of_lt hk).trans_lt hk, hle⟩ (fun _ => hs.lock_index (by rw [hp]; rfl)) (by simp)
  | lockLast hp =>
    obtain ⟨hlt, hle⟩ := hs.pass_range (by rw [hp]; rfl)
    exact ((hs.withEnv (hwritten _ _)).record _).setSeq_pass (by simp [hp, applyPhase]) rfl ⟨rfl, rfl, rfl⟩
      ⟨Nat.zero_lt_of_lt hlt, hle⟩ (by simp [lockPhase]) (by simp)
  | broadcastNext hp _ hk =>
    obtain ⟨_, hle⟩ := hs.pass_range (by rw [hp]; rfl)
    exact ((hs.withEnv (hwritten _ _)).record _).setSeq_pass (by simp [hp, applyPhase]) (by simp [hp, passPhase])
      ⟨rfl, rfl, rfl⟩ ⟨(toNat_succ_of_lt hk).trans_lt hk, hle⟩ (by simp [hp, lockPhase]) (by simp [hp])
  | broadcastLast hp =>
    exact ((hs.withEnv (hwritten _ _)).record _).standing.inv_complete (hs.err_clear (hs.busy_of_waiting hp (by decide)))

/-! ### The step -/

/-- Settles O50, by the move the step makes: a command ends at once or launches, a waiting step advances, and the other moves
write the inputs, the cells or the reset values. -/
theorem everyStepKeepsTheInvariant : Obligations.EveryStepKeepsTheInvariant := by
  unfold Obligations.EveryStepKeepsTheInvariant
  intro s t hs h
  obtain ⟨_, hm⟩ := step_moves h
  cases hm with
  | reset => exact applyReset_inv hs.cfg_wf hs.msr_wf
  | command _ _ rest _ _ _ _ he =>
    have hs' := hs.withInputs rest s.draws
    obtain hend | hlaunch := exec_cases he
    · exact hend.inv hs'.standing
    · exact hlaunch.inv hs'
  | illegal c _ rest =>
    have hs' : (({ s with host := rest } : State).clearErr).Standing := { hs.standing with }
    exact hs'.inv_raise (by decide) (by simp [ErrInfo.zero])
  | outside k a v rest => exact (hs.withInputs rest s.draws).withEnv (writeMsr_wf k a v hs.msr_wf)
  | poll rest | unanswered rest => exact hs.withInputs rest s.draws
  | idle => exact hs
  | answered left d rest _ hp => exact (answered_advances hp d left rest).inv (hs.withInputs left rest)

end Sys2Proof.Machine
end

section
/-! PROOFS. The one step a waiting block takes, the outstanding request by phase, and what the collaborator's answer leaves of
the cells (spec/20_memory.md R60 to R66, R78). -/

namespace Sys2Proof.Machine

/-! ### The outstanding request -/

theorem outstanding_eq_read_iff {s : State} {a : MsrAddr} {m : Nat} :
    outstanding s = some (.read a m) ↔ s.seq.phase = .tscRdWait ∧ a = s.cfg.hwcrAddr ∧ m = coreMask s.seq.k := by
  cases hp : s.seq.phase <;> simp [outstanding, hp, eq_comm]

theorem outstanding_eq_write_iff {s : State} {a : MsrAddr} {m : Nat} {v : Word} :
    outstanding s = some (.write a m v) ↔
      (s.seq.phase = .tscWrWait ∧ a = s.cfg.hwcrAddr ∧ m = coreMask s.seq.k ∧ v = s.seq.hw) ∨
      (s.seq.phase = .bcWrWait ∧ a = s.seq.addr ∧ m = coreMask s.seq.k ∧ v = s.seq.value) := by
  cases hp : s.seq.phase <;> simp [outstanding, hp, eq_comm]

/-- A READ or WRITE is sent in a phase of the two passes, to processor `seq.k` alone, and to HWCR or the target. -/
theorem outstanding_msr {s : State} {a : MsrAddr} {m : Nat} {v : Word}
    (h : outstanding s = some (.read a m) ∨ outstanding s = some (.write a m v)) :
    passPhase s.seq.phase = true ∧ m = coreMask s.seq.k ∧ (a = s.cfg.hwcrAddr ∨ a = s.seq.addr) := by
  rw [outstanding_eq_read_iff, outstanding_eq_write_iff] at h
  obtain ⟨hp, ha, hm⟩ | ⟨hp, ha, hm, _⟩ | ⟨hp, ha, hm, _⟩ := h
  · exact ⟨by rw [hp]; rfl, hm, .inl ha⟩
  · exact ⟨by rw [hp]; rfl, hm, .inl ha⟩
  · exact ⟨by rw [hp]; rfl, hm, .inr ha⟩

theorem applyPhase_of_passPhase {p : Phase} (h : passPhase p = true) : applyPhase p = true := by
  cases p with
  | idle | platWait | topoWait => exact absurd h Bool.false_ne_true
  | tscRdWait | tscWrWait | bcWrWait => rfl

/-- The mask of a processor has its bit set and no other (R66). -/
theorem coreMask_testBit (k : Word) (j : Nat) : (coreMask k).testBit j = decide (j = k.toNat) := by
  rw [coreMask, Nat.testBit_two_pow]
  exact decide_eq_decide.mpr eq_comm

/-- The eight P-state addresses (R60, spec/42_selector.md R200). -/
theorem pstateAddr_toNat {i : Nat} (h : i ≤ 7) : (pstateAddr i).toNat = 0xC0010064 + i := by
  simp only [pstateAddr, pstateBase, BitVec.toNat_add, BitVec.toNat_ofNat]
  omega

/-- Settles O40: the invariant bounds `seq.k` in every phase of the passes. -/
theorem everyMsrRequestIsOneHot : Obligations.EveryMsrRequestIsOneHot := by
  unfold Obligations.EveryMsrRequestIsOneHot
  intro s a m v hs hreq
  obtain ⟨hpass, rfl, _⟩ := outstanding_msr hreq
  obtain ⟨hk, hn⟩ := hs.pass_range hpass
  exact ⟨hk, hn, Nat.pow_lt_pow_right (by decide) (hk.trans_le hn), coreMask_testBit s.seq.k⟩

/-- Settles O41: by the invariant the target of a pass is the P-state address of the slot's index. -/
theorem onlyHwcrAndPstateAddressesAreSent : Obligations.OnlyHwcrAndPstateAddressesAreSent := by
  unfold Obligations.OnlyHwcrAndPstateAddressesAreSent
  intro s a m v hs hreq
  obtain ⟨hpass, _, ha | ha⟩ := outstanding_msr hreq
  · exact .inl ha
  · obtain ⟨htarget, _⟩ := hs.apply_target (applyPhase_of_passPhase hpass)
    have hindex : s.slot.index.toNat ≤ 7 := Nat.le_of_lt_succ s.slot.index.isLt
    rw [ha, htarget, pstateAddr_toNat hindex]
    omega

/-! ### One step -/

/-- Between commands another agent's write is performed in one step (R78). -/
theorem step_of_outsideWrite {s : State} {k : Nat} {a : MsrAddr} {v : Word} {rest : List HostMove} (hc : s.cfg.wf = true)
    (hb : s.busy = false) (hh : s.host = .outsideWrite k a v :: rest) :
    step s = .next (({ s with host := rest } : State).outsideWrite k a v) := by
  simp [step, stepBody, idleStep, hc, hb, hh]

/-- Where the host holds commands only, a waiting block takes the next answer (spec/43_apply.md R230). -/
theorem step_of_waiting {s : State} {p : Phase} {d : Draw} {rest : List Draw} (h : waiting s p d rest) (hp : p ≠ .idle) :
    step s = .next (answerStep d { s with draws := rest }) := by
  obtain ⟨hc, hb, rfl, hcmds, hd⟩ := h
  have hwait : busyStep s = waitStep s := by
    cases hh : s.host with
    | nil => simp only [busyStep, hh]
    | cons m moves =>
      cases m with
      | command c => simp only [busyStep, hh]
      | reset | poll | outsideWrite => simp [hh, commandsOnly] at hcmds
  simp [step, stepBody, hc, hb, hwait, waitStep, hp, hd]

/-- Settles O12: the move writes one cell (`step_of_outsideWrite`), and a cell number names one processor and address. -/
theorem outsideWriteDoesNotReachTheSlot : Obligations.OutsideWriteDoesNotReachTheSlot := by
  unfold Obligations.OutsideWriteDoesNotReachTheSlot
  intro s k a v rest hc hb hh hm
  exact ⟨writeMsr s.env.msr k a v, step_of_outsideWrite hc hb hh, readMsr_writeMsr_same k a v hm,
    fun _ _ hne => readMsr_writeMsr_other v hm hne⟩

/-! ### The answer to a READ or WRITE -/

theorem tscWriteStep_env (d : Draw) (s : State) :
    (tscWriteStep d s).env = envAfterWrite s.env d s.cfg.hwcrAddr (coreMask s.seq.k) s.seq.hw := by
  unfold tscWriteStep
  split
  · rfl
  · split <;> rfl

theorem broadcastStep_env (d : Draw) (s : State) :
    (broadcastStep d s).env = envAfterWrite s.env d s.seq.addr (coreMask s.seq.k) s.seq.value := by
  unfold broadcastStep
  split
  · rfl
  · split <;> rfl

/-- Whatever the block makes of the answer, a WRITE leaves the environment as the collaborator does (R64). -/
theorem answerStep_env_of_write {s : State} {a : MsrAddr} {m : Nat} {v : Word} (h : outstanding s = some (.write a m v))
    (d : Draw) : (answerStep d s).env = envAfterWrite s.env d a m v := by
  obtain ⟨hp, rfl, rfl, rfl⟩ | ⟨hp, rfl, rfl, rfl⟩ := outstanding_eq_write_iff.mp h
  · simp only [answerStep, hp, tscWriteStep_env]
  · simp only [answerStep, hp, broadcastStep_env]

/-- A READ leaves the environment, and the event records the collaborator's answer (R65, spec/43_apply.md R230). -/
theorem answerStep_of_read {s : State} {a : MsrAddr} {m : Nat} (h : outstanding s = some (.read a m)) (d : Draw) :
    (answerStep d s).env = s.env ∧
      (answerStep d s).history = s.history ++ [.read s.seq.k.toNat a (readAnswer s.env d a m)] := by
  obtain ⟨hp, rfl, rfl⟩ := outstanding_eq_read_iff.mp h
  simp only [answerStep, hp, tscReadStep, maskCore_coreMask]
  cases readAnswer s.env d s.cfg.hwcrAddr (coreMask s.seq.k) <;> exact ⟨rfl, rfl⟩

/-- The step of a waiting block with an outstanding request takes the draw that answers it. -/
theorem step_of_outstanding {s : State} {r : Request} {d : Draw} {rest : List Draw}
    (h : waiting s s.seq.phase d rest) (hr : outstanding s = some r) :
    step s = .next (answerStep d { s with draws := rest }) :=
  step_of_waiting h fun hp => by simp [outstanding, hp] at hr

/-- In the reference environment a WRITE is performed exactly on `Ok`, or where the draw says so on `Err` (R64). -/
theorem envAfterWrite_reference {e : Env} (h : e.reading = .reference) (d : Draw) (a : MsrAddr) (m : Nat) (v : Word) :
    (envAfterWrite e d a m v).msr =
      if d.error = none ∨ d.performed = true then writeMsr e.msr (maskCore m) a v else e.msr := by
  simp only [envAfterWrite, h]
  split <;> rfl

/-- In the reference environment an answer that carries a value carries what the environment holds, or is `Err` as drawn. -/
theorem valueAnswer_reference {e : Env} (h : e.reading = .reference) (d : Draw) (held : Word) :
    valueAnswer e d held = .ok held ∨ ∃ c, d.error = some c ∧ valueAnswer e d held = .err c := by
  unfold valueAnswer
  cases d.error with
  | none => rw [h]; exact .inl rfl
  | some c => exact .inr ⟨c, rfl, rfl⟩

/-- Settles O42: the step leaves what the collaborator leaves, and that is the written space or the old one. -/
theorem referenceWriteChangesOneCell : Obligations.ReferenceWriteChangesOneCell := by
  unfold Obligations.ReferenceWriteChangesOneCell
  intro s t a m v d rest href hwf hwait hreq hstep
  obtain ⟨_, rfl, _⟩ := outstanding_msr (.inr hreq)
  cases (step_of_outstanding hwait hreq).symm.trans hstep
  have hreq' : outstanding { s with draws := rest } = some (.write a (coreMask s.seq.k) v) := hreq
  rw [answerStep_env_of_write hreq', envAfterWrite_reference href, maskCore_coreMask]
  split
  · have hsame := readMsr_writeMsr_same s.seq.k.toNat a v hwf
    exact ⟨fun _ => hsame, .inl hsame, fun _ _ hne => readMsr_writeMsr_other v hwf hne, writeMsr_wf _ a v hwf⟩
  · rename_i hnot
    exact ⟨fun hok => absurd (.inl hok) hnot, .inr rfl, fun _ _ _ => rfl, hwf⟩

/-- Settles O43: the event of a READ holds the collaborator's answer, which the reference environment takes from the cell. -/
theorem referenceReadReturnsTheCell : Obligations.ReferenceReadReturnsTheCell := by
  unfold Obligations.ReferenceReadReturnsTheCell
  intro s t a m d rest href hwait hreq hstep
  obtain ⟨_, _, rfl⟩ := outstanding_eq_read_iff.mp hreq
  cases (step_of_outstanding hwait hreq).symm.trans hstep
  have hreq' : outstanding { s with draws := rest } = some (.read a (coreMask s.seq.k)) := hreq
  obtain ⟨henv, hhistory⟩ := answerStep_of_read hreq' d
  refine ⟨henv, ?_⟩
  rw [hhistory, readAnswer, maskCore_coreMask]
  obtain hok | ⟨c, hc, herr⟩ := valueAnswer_reference href d (readMsr s.env.msr s.seq.k.toNat a)
  · rw [hok]; exact .inl rfl
  · rw [herr]; exact .inr ⟨c, hc, rfl⟩

end Sys2Proof.Machine
end

section
/-! PROOFS. The block behind another collaborator: no command sees the change, and a free collaborator has a draw that repeats
each answer of the reference environment (spec/20_memory.md R64 to R68). -/

namespace Sys2Proof.Machine

/-- The same block and host, with another collaborator behind the port. -/
def State.behind (s : State) (e : Env) (ds : List Draw) : State := { s with env := e, draws := ds }

/-! ### Commands -/

/-- An outcome with another collaborator behind the port of its next state. -/
def outcomeBehind (o : Host.Outcome State Fault Refusal) (e : Env) (ds : List Draw) : Host.Outcome State Fault Refusal :=
  match o with
  | .next t => .next (t.behind e ds)
  | .fault r => .fault r
  | .refused r => .refused r

theorem deliverFromSlot_behind (f : Word → Word) (s : State) (e : Env) (ds : List Draw) :
    deliverFromSlot f (s.behind e ds) = (deliverFromSlot f s).behind e ds := by
  simp only [deliverFromSlot, apply_ite (State.behind · e ds)]
  rfl

theorem updateField_behind (f : Field) (v : Word) (s : State) (e : Env) (ds : List Draw) :
    updateField f v (s.behind e ds) = (updateField f v s).behind e ds := by
  simp only [updateField, apply_ite (State.behind · e ds)]
  rfl

theorem staticQuotient_behind (scale : Nat) (fid did : Word) (s : State) (e : Env) (ds : List Draw) :
    staticQuotient scale fid did (s.behind e ds) = (staticQuotient scale fid did s).behind e ds := by
  simp only [staticQuotient, deliverQuotient, apply_ite (State.behind · e ds)]
  rfl

theorem slotQuotient_behind (scale : Nat) (s : State) (e : Env) (ds : List Draw) :
    slotQuotient scale (s.behind e ds) = (slotQuotient scale s).behind e ds := by
  simp only [slotQuotient, deliverQuotient, apply_ite (State.behind · e ds)]
  rfl

/-- At its acceptance no command sees the collaborator. -/
theorem exec_behind (i : Instr) (s : State) (e : Env) (ds : List Draw) :
    exec i (s.behind e ds) = outcomeBehind (exec i s) e ds := by
  cases i with
  | getfid | getdid | getvid | encode | vcorer => exact congrArg _ (deliverFromSlot_behind _ s e ds)
  | setfid v | setdid v | setvid v => exact congrArg _ (updateField_behind _ v s e ds)
  | ratio fid did | freq fid did => exact congrArg _ (staticQuotient_behind _ fid did s e ds)
  | ratior | freqr => exact congrArg _ (slotQuotient_behind _ s e ds)
  | chkplat => simp only [exec, execChkplat, apply_ite (outcomeBehind · e ds)]; rfl
  | construct index raw => simp only [exec, execConstruct, apply_ite (outcomeBehind · e ds)]; rfl
  | vcore vid => simp only [exec, execVcore, apply_ite (outcomeBehind · e ds)]; rfl
  | describe => simp only [exec, execDescribe, apply_ite (outcomeBehind · e ds)]; rfl
  | addrfor index => simp only [exec, execAddrfor, apply_ite (outcomeBehind · e ds)]; rfl
  | apply => simp only [exec, execApply, apply_ite (outcomeBehind · e ds)]; rfl

/-! ### Answers -/

/-- The draw with which a free collaborator repeats the answer of the environment `e` to the draw `d`, where `held` is the
value `e` holds for the request. -/
def repeatDraw (e : Env) (d : Draw) (held : Word) : Draw := { d with supported := e.supported, value := held }

theorem platAnswer_repeatDraw {e e' : Env} (he : e.reading = .reference) (he' : e'.reading = .free) (d : Draw) (held : Word) :
    platAnswer e' (repeatDraw e d held) = platAnswer e d := by
  simp only [platAnswer, he, he', repeatDraw]

theorem valueAnswer_repeatDraw {e e' : Env} (he : e.reading = .reference) (he' : e'.reading = .free) (d : Draw)
    (held held' : Word) : valueAnswer e' (repeatDraw e d held) held' = valueAnswer e d held := by
  simp only [valueAnswer, he, he', repeatDraw]

/-- A WRITE answers as drawn in both readings. -/
theorem writeAnswer_repeatDraw (e : Env) (d : Draw) (held : Word) : writeAnswer (repeatDraw e d held) = writeAnswer d := rfl

theorem envAfterWrite_free {e : Env} (h : e.reading = .free) (d : Draw) (a : MsrAddr) (m : Nat) (v : Word) :
    envAfterWrite e d a m v = e := by
  simp only [envAfterWrite, h]

section
variable {s : State} {e : Env} (he : e.reading = .free) (d : Draw) (ds : List Draw)
include he

theorem portWrite_repeatDraw (e' : Env) (held : Word) (a : MsrAddr) (v : Word) :
    portWrite (repeatDraw e' d held) a v (s.behind e ds) = (portWrite d a v s).behind e ds := by
  have henv := envAfterWrite_free he (repeatDraw e' d held) a (coreMask s.seq.k) v
  exact congrArg ((portWrite d a v s).behind · ds) henv

theorem tscWriteStep_repeatDraw (e' : Env) (held : Word) :
    tscWriteStep (repeatDraw e' d held) (s.behind e ds) = (tscWriteStep d s).behind e ds := by
  unfold tscWriteStep
  rw [writeAnswer_repeatDraw, portWrite_repeatDraw he]
  cases writeAnswer d with
  | err c => rfl
  | ok _ => simp only [apply_ite (State.behind · e ds)]; rfl

theorem broadcastStep_repeatDraw (e' : Env) (held : Word) :
    broadcastStep (repeatDraw e' d held) (s.behind e ds) = (broadcastStep d s).behind e ds := by
  unfold broadcastStep
  rw [writeAnswer_repeatDraw, portWrite_repeatDraw he]
  cases writeAnswer d with
  | err c => rfl
  | ok _ => simp only [apply_ite (State.behind · e ds)]; rfl

variable (hs : s.env.reading = .reference)
include hs

theorem platStep_repeatDraw (held : Word) :
    platStep (repeatDraw s.env d held) (s.behind e ds) = (platStep d s).behind e ds := by
  have ha : platAnswer (s.behind e ds).env (repeatDraw s.env d held) = platAnswer s.env d :=
    platAnswer_repeatDraw hs he d held
  unfold platStep
  rw [ha]
  cases platAnswer s.env d <;> rfl

theorem topoStep_repeatDraw :
    topoStep (repeatDraw s.env d s.env.nHw) (s.behind e ds) = (topoStep d s).behind e ds := by
  have ha : topoAnswer (s.behind e ds).env (repeatDraw s.env d s.env.nHw) = topoAnswer s.env d :=
    valueAnswer_repeatDraw hs he d _ _
  unfold topoStep
  rw [ha]
  cases topoAnswer s.env d with
  | err c => rfl
  | ok n => simp only [apply_ite (State.behind · e ds)]; rfl

theorem tscReadStep_repeatDraw :
    tscReadStep (repeatDraw s.env d (readMsr s.env.msr (maskCore (coreMask s.seq.k)) s.cfg.hwcrAddr)) (s.behind e ds) =
      (tscReadStep d s).behind e ds := by
  have ha : readAnswer (s.behind e ds).env
      (repeatDraw s.env d (readMsr s.env.msr (maskCore (coreMask s.seq.k)) s.cfg.hwcrAddr)) (s.behind e ds).cfg.hwcrAddr
      (coreMask (s.behind e ds).seq.k) = readAnswer s.env d s.cfg.hwcrAddr (coreMask s.seq.k) :=
    valueAnswer_repeatDraw hs he d _ _
  simp only [tscReadStep, ha]
  cases readAnswer s.env d s.cfg.hwcrAddr (coreMask s.seq.k) <;> rfl

/-- In every phase some draw of the free collaborator gives the block the answer of the reference environment. -/
theorem exists_answerStep_behind : ∃ d', ∀ ds, answerStep d' (s.behind e ds) = (answerStep d s).behind e ds := by
  have hphase (ds : List Draw) : (s.behind e ds).seq.phase = s.seq.phase := rfl
  simp only [answerStep, hphase]
  cases s.seq.phase with
  | idle => exact ⟨d, fun _ => rfl⟩
  | platWait => exact ⟨_, fun ds => platStep_repeatDraw he d ds hs 0#64⟩
  | topoWait => exact ⟨_, fun ds => topoStep_repeatDraw he d ds hs⟩
  | tscRdWait => exact ⟨_, fun ds => tscReadStep_repeatDraw he d ds hs⟩
  | tscWrWait => exact ⟨_, fun ds => tscWriteStep_repeatDraw he d ds s.env 0#64⟩
  | bcWrWait => exact ⟨_, fun ds => broadcastStep_repeatDraw he d ds s.env 0#64⟩

end

end Sys2Proof.Machine
end

section
/-! PROOFS. The two readings of the collaborator (spec/20_memory.md R68): every step, and so every run, under the reference
environment is one behind a free collaborator. -/

namespace Sys2Proof.Machine

/-- Behind the free collaborator `e` too, `f` leads from the block of `s` to that of `u`: whatever draws are to be left, as many
as `u` has, can be extended to as many as `s` has. -/
def Repeats (f : State → Host.Outcome State Fault Refusal) (s u : State) (e : Env) : Prop :=
  ∃ e', e'.reading = .free ∧ ∀ left, left.length = u.draws.length →
    ∃ ds, ds.length = s.draws.length ∧ f (s.behind e ds) = .next (u.behind e' left)

/-- A step that takes no draw repeats behind any draws, as many as it had. -/
theorem Repeats.of_no_draw {f : State → Host.Outcome State Fault Refusal} {s u : State} {e : Env} (he : e.reading = .free)
    (hlen : u.draws.length = s.draws.length)
    (h : ∀ ds, ds.length = s.draws.length → f (s.behind e ds) = .next (u.behind e ds)) : Repeats f s u e :=
  ⟨e, he, fun left hleft => ⟨left, hleft.trans hlen, h left (hleft.trans hlen)⟩⟩

/-- A step that takes a draw repeats with some draw `d` in its place. -/
theorem Repeats.of_draw {f : State → Host.Outcome State Fault Refusal} {s u : State} {e : Env} (he : e.reading = .free)
    (hlen : u.draws.length + 1 = s.draws.length) (d : Draw)
    (h : ∀ ds, f (s.behind e (d :: ds)) = .next (u.behind e ds)) : Repeats f s u e :=
  ⟨e, he, fun left hleft => ⟨d :: left, (congrArg (· + 1) hleft).trans hlen, h left⟩⟩

/-- `g` repeats from `s'` what `f` repeats from `s`, where the two amount to the same. -/
theorem Repeats.congr {f g : State → Host.Outcome State Fault Refusal} {s s' u : State} {e : Env} (h : Repeats f s u e)
    (hlen : s.draws.length = s'.draws.length) (heq : ∀ ds, g (s'.behind e ds) = f (s.behind e ds)) : Repeats g s' u e := by
  obtain ⟨e', he', hrepeat⟩ := h
  refine ⟨e', he', fun left hleft => ?_⟩
  obtain ⟨ds, hds, hf⟩ := hrepeat left hleft
  exact ⟨ds, hds.trans hlen, (heq ds).trans hf⟩

/-! ### Reset -/

theorem applyReset_of_unanswered {s : State} (h : outstanding s = none ∨ s.draws = []) : applyReset s = s.resetBlock := by
  rw [applyReset, abandonRequest]
  split
  · rename_i hr hd
    simp [hr, hd] at h
  · rfl

theorem applyReset_of_abandoned {s : State} {r : Request} {d : Draw} {rest : List Draw} (hr : outstanding s = some r)
    (hd : s.draws = d :: rest) :
    applyReset s = ({ s with env := envAfterRequest s.env d r, draws := rest } : State).resetBlock := by
  rw [applyReset, abandonRequest, hr, hd]

theorem envAfterRequest_free {e : Env} (h : e.reading = .free) (d : Draw) (r : Request) : envAfterRequest e d r = e := by
  cases r with
  | plat | topo | read => rfl
  | write a m v => exact envAfterWrite_free h d a m v

/-- A reset repeats with the draw it abandons, if it abandons one (spec/70_reset_and_hazards.md R310). -/
theorem applyReset_repeats (s : State) {e : Env} (he : e.reading = .free) :
    Repeats (fun s => .next (applyReset s)) s (applyReset s) e := by
  cases hr : outstanding s with
  | none =>
    rw [applyReset_of_unanswered (.inl hr)]
    exact .of_no_draw he rfl fun ds _ => congrArg _ (applyReset_of_unanswered (s := s.behind e ds) (.inl hr))
  | some r =>
    cases hd : s.draws with
    | nil =>
      rw [applyReset_of_unanswered (.inr hd)]
      refine .of_no_draw he rfl fun ds hlen => congrArg _ (applyReset_of_unanswered (s := s.behind e ds) (.inr ?_))
      exact List.eq_nil_of_length_eq_zero (hlen.trans (congrArg List.length hd))
    | cons d rest =>
      rw [applyReset_of_abandoned hr hd]
      refine .of_draw he (by rw [hd]; rfl) d fun ds => ?_
      have hreset : applyReset (s.behind e (d :: ds)) = _ := applyReset_of_abandoned hr rfl
      have henv : envAfterRequest (s.behind e (d :: ds)).env d r = e := envAfterRequest_free he d r
      rw [hreset, henv]
      rfl

/-! ### Steps -/

/-- A waiting step takes its draw before it begins, and no other. -/
theorem Advances.draws {d : Draw} {s t : State} (h : Advances d s t) : t.draws = s.draws := by
  cases h <;> rfl

theorem waitStep_repeats {s u : State} {e : Env} (hs : s.env.reading = .reference) (he : e.reading = .free)
    (h : waitStep s = .next u) : Repeats waitStep s u e := by
  obtain ⟨hp, ⟨hd, rfl⟩ | ⟨d, rest, hd, rfl⟩⟩ := waitStep_next h
  · refine .of_no_draw he rfl fun ds hlen => ?_
    obtain rfl : ds = [] := List.eq_nil_of_length_eq_zero (hlen.trans (congrArg List.length hd))
    exact if_neg hp
  · have hrest := (answerStep_advances (d := d) (s := { s with draws := rest }) hp).draws
    obtain ⟨d', hd'⟩ := exists_answerStep_behind (s := { s with draws := rest }) he d hs
    refine .of_draw he (by rw [hrest, hd]; rfl) d' fun ds => ?_
    rw [← hd']
    exact if_neg hp

theorem busyStep_repeats {s u : State} {e : Env} (hs : s.env.reading = .reference) (he : e.reading = .free)
    (h : busyStep s = .next u) : Repeats busyStep s u e := by
  cases hh : s.host with
  | nil =>
    simp only [busyStep, hh] at h
    exact (waitStep_repeats hs he h).congr rfl fun ds => by simp only [busyStep, State.behind, hh]
  | cons m rest =>
    cases m with
    | reset =>
      simp only [busyStep, hh] at h
      cases h
      exact (applyReset_repeats _ he).congr rfl fun ds => by simp only [busyStep, State.behind, hh]
    | poll =>
      simp only [busyStep, hh] at h
      have hwait := waitStep_repeats (s := { s with host := rest }) hs he h
      exact hwait.congr rfl fun ds => by simp only [busyStep, State.behind, hh]
    | command | outsideWrite =>
      simp only [busyStep, hh] at h
      exact (waitStep_repeats hs he h).congr rfl fun ds => by simp only [busyStep, State.behind, hh]

theorem acceptCommand_repeats {c : Command} {s u : State} {e : Env} (he : e.reading = .free)
    (h : acceptCommand c s = .next u) : Repeats (acceptCommand c) s u e := by
  cases hd : decode c with
  | illegal why =>
    simp only [acceptCommand, hd] at h
    cases h
    exact .of_no_draw he rfl fun ds _ => by simp only [acceptCommand, hd]; rfl
  | legal i =>
    simp only [acceptCommand, hd] at h
    obtain ⟨u', hu, _, _, _, hdraws, _⟩ := exec_frame i s
    cases h.symm.trans hu
    refine .of_no_draw he (congrArg List.length hdraws) fun ds _ => ?_
    simp only [acceptCommand, hd, exec_behind, h, outcomeBehind]

theorem idleStep_repeats {s u : State} {e : Env} (he : e.reading = .free)
    (h : idleStep s = .next u) : Repeats idleStep s u e := by
  cases hh : s.host with
  | nil =>
    simp only [idleStep, hh] at h
    cases h
    exact .of_no_draw he rfl fun ds _ => by simp only [idleStep, State.behind, hh]
  | cons m rest =>
    cases m with
    | reset =>
      simp only [idleStep, hh] at h
      cases h
      exact (applyReset_repeats _ he).congr rfl fun ds => by simp only [idleStep, State.behind, hh]
    | poll =>
      simp only [idleStep, hh] at h
      cases h
      exact .of_no_draw he rfl fun ds _ => by simp only [idleStep, State.behind, hh]
    | outsideWrite k a v =>
      simp only [idleStep, hh] at h
      cases h
      refine ⟨{ e with msr := writeMsr e.msr k a v }, he, fun left hleft => ⟨left, hleft, ?_⟩⟩
      simp only [idleStep, State.behind, hh]
      rfl
    | command c =>
      simp only [idleStep, hh] at h
      exact (acceptCommand_repeats he h).congr rfl fun ds => by simp only [idleStep, State.behind, hh]

/-- Every step under the reference environment is one behind each free collaborator (R68). -/
theorem step_repeats {s u : State} {e : Env} (hs : s.env.reading = .reference) (he : e.reading = .free)
    (h : step s = .next u) : Repeats step s u e := by
  obtain ⟨hc, _⟩ := step_moves h
  have hstep (ds : List Draw) : step (s.behind e ds) = stepBody (s.behind e ds) := if_pos hc
  rw [step, if_pos hc] at h
  cases hb : s.busy with
  | true =>
    rw [stepBody, if_pos hb] at h
    exact (busyStep_repeats hs he h).congr rfl fun ds => (hstep ds).trans (if_pos hb)
  | false =>
    have hidle : ¬ s.busy = true := by simp [hb]
    rw [stepBody, if_neg hidle] at h
    exact (idleStep_repeats he h).congr rfl fun ds => (hstep ds).trans (if_neg hidle)

/-! ### Runs -/

/-- Every run under the reference environment is one behind each free collaborator with as many draws. -/
theorem run_repeats {n : Nat} {s t : State} {e : Env} (hs : s.env.reading = .reference) (he : e.reading = .free)
    (h : runsTo n s t) : Repeats (Host.Core.run Sys2Proof.core n) s t e := by
  induction n generalizing s e with
  | zero =>
    cases h
    exact .of_no_draw he rfl fun _ _ => rfl
  | succ n ih =>
    obtain ⟨u, hu, hrun⟩ := run_succ_next h
    obtain ⟨cells, henv⟩ := step_env_eq_cells hu
    have hureading : u.env.reading = .reference := by rw [henv]; exact hs
    obtain ⟨e₁, he₁, hfirst⟩ := step_repeats hs he hu
    obtain ⟨e₂, he₂, hlater⟩ := ih hureading he₁ hrun
    refine ⟨e₂, he₂, fun left hleft => ?_⟩
    obtain ⟨mid, hmid, hmidrun⟩ := hlater left hleft
    obtain ⟨ds, hds, hstep⟩ := hfirst mid hmid
    exact ⟨ds, hds, (run_succ_of_next hstep n).trans hmidrun⟩

/-- Settles O58: `run_repeats` with the free reading of the same environment, and with any draws left at the end. -/
theorem referenceRunsAreFreeRuns : Obligations.ReferenceRunsAreFreeRuns := by
  unfold Obligations.ReferenceRunsAreFreeRuns
  intro n s t hs hrun
  obtain ⟨e, _, hrepeat⟩ := run_repeats (e := { s.env with reading := .free }) hs rfl hrun
  obtain ⟨ds, hds, hfree⟩ := hrepeat t.draws rfl
  exact ⟨ds, t.behind e t.draws, hds, hfree, rfl, rfl, rfl, rfl, rfl, rfl, rfl⟩

end Sys2Proof.Machine
end

section
/-! PROOFS. The decoder and the encoder of the command word (spec/30_encoding.md R93 to R100): the two fields of a word, the
opcode map, and what one of them makes of the other's answer. -/

namespace Sys2Proof

/-! ### The fields of a command word -/

/-- R93, numerically: the reserved field is the high byte. -/
@[simp] theorem rsvField_toNat (w : CmdWord) : (rsvField w).toNat = w.toNat / 256 := by
  have hw := w.isLt
  simp only [rsvField, BitVec.extractLsb'_toNat, Nat.shiftRight_eq_div_pow]
  omega

/-- R93, numerically: the opcode field is the low byte. -/
@[simp] theorem opField_toNat (w : CmdWord) : (opField w).toNat = w.toNat % 256 := by
  simp [opField]

theorem rsvField_eq_zero_iff {w : CmdWord} : rsvField w = 0#8 ↔ w.toNat / 256 = 0 := by
  rw [← BitVec.toNat_inj, rsvField_toNat, BitVec.toNat_zero]

/-- A legal answer of the decoder is one of the opcode map, for a word whose reserved byte is 0 (R98, R100). -/
theorem decode_eq_legal_iff {c : Command} {i : Instr} :
    decode c = .legal i ↔ c.cmd.toNat / 256 = 0 ∧ decodeOp (c.cmd.toNat % 256) c.opa c.opb = .legal i := by
  simp only [decode, rsvField_eq_zero_iff, opField_toNat]
  split
  · next hrsv => simp [hrsv]
  · next hrsv => simp [hrsv]

/-! ### The opcode map -/

/-- The opcodes of R95 are 0x01 to 0x12. -/
theorem opcodeOf_bounds (i : Instr) : 1 ≤ (opcodeOf i).toNat ∧ (opcodeOf i).toNat ≤ 0x12 := by
  cases i <;> exact ⟨by simp [opcodeOf], by simp [opcodeOf]⟩

/-- The map takes the opcode of a command, with that command's operand words, to the command. -/
theorem decodeOp_opcodeOf (i : Instr) : decodeOp (opcodeOf i).toNat (operandsOf i).1 (operandsOf i).2 = .legal i := by
  cases i <;> rfl

/-- The map takes no other opcode to a command, whatever the operand words: it is injective (R95). -/
theorem opcodeOf_of_decodeOp {op : Nat} {a b : Word} {i : Instr} (h : decodeOp op a b = .legal i) :
    (opcodeOf i).toNat = op := by
  unfold decodeOp at h
  split at h <;> cases h <;> rfl

/-- Every opcode from 0x01 to 0x12 has a command (R95). -/
theorem exists_decodeOp_legal {op : Nat} (a b : Word) (hlo : 1 ≤ op) (hhi : op ≤ 0x12) :
    ∃ i, decodeOp op a b = .legal i := by
  interval_cases op <;> exact ⟨_, rfl⟩

/-! ### The encoder -/

/-- The word of a command is its opcode below a zero byte (R100). -/
@[simp] theorem encode_cmd_toNat (i : Instr) : (encode i).cmd.toNat = (opcodeOf i).toNat := by
  have hop := (opcodeOf i).isLt
  simp only [encode, BitVec.toNat_setWidth]
  omega

/-- The word of a command is decoded by the opcode map, with whatever operand words stand beside it. -/
theorem decode_encode_cmd (i : Instr) (a b : Word) : decode ⟨(encode i).cmd, a, b⟩ = decodeOp (opcodeOf i).toNat a b := by
  obtain ⟨_, hhi⟩ := opcodeOf_bounds i
  have hrsv : (opcodeOf i).toNat / 256 = 0 := by omega
  have hop : (opcodeOf i).toNat % 256 = (opcodeOf i).toNat := by omega
  rw [decode, if_pos (by rw [rsvField_eq_zero_iff, encode_cmd_toNat, hrsv]), opField_toNat, encode_cmd_toNat, hop]

theorem decode_encode (i : Instr) : decode (encode i) = .legal i :=
  (decode_encode_cmd i _ _).trans (decodeOp_opcodeOf i)

/-- A word that decodes to a command is that command's word. -/
theorem encode_cmd_of_decode {c : Command} {i : Instr} (h : decode c = .legal i) : (encode i).cmd = c.cmd := by
  obtain ⟨hrsv, hmap⟩ := decode_eq_legal_iff.mp h
  apply BitVec.eq_of_toNat_eq
  rw [encode_cmd_toNat, opcodeOf_of_decodeOp hmap]
  omega

/-- The legal words of R98, as the decoder has them. -/
theorem exists_decode_legal_iff {c : Command} :
    (∃ i, decode c = .legal i) ↔ c.cmd.toNat / 256 = 0 ∧ c.cmd.toNat % 256 ≠ 0 ∧ c.cmd.toNat % 256 < 0x13 := by
  constructor
  · rintro ⟨i, h⟩
    obtain ⟨hrsv, hmap⟩ := decode_eq_legal_iff.mp h
    obtain ⟨hlo, hhi⟩ := opcodeOf_bounds i
    rw [opcodeOf_of_decodeOp hmap] at hlo hhi
    exact ⟨hrsv, by omega, by omega⟩
  · rintro ⟨hrsv, hlo, hhi⟩
    obtain ⟨i, hmap⟩ := exists_decodeOp_legal c.opa c.opb (by omega) (Nat.le_of_lt_succ hhi)
    exact ⟨i, decode_eq_legal_iff.mpr ⟨hrsv, hmap⟩⟩

/-- Settles O2: the opcode map inverts `opcodeOf`, and `decode_eq_legal_iff` takes it to whole words. -/
theorem decodeAndEncodeAgree : Obligations.DecodeAndEncodeAgree := by
  unfold Obligations.DecodeAndEncodeAgree
  exact ⟨decode_encode, fun _ _ => encode_cmd_of_decode, fun _ => exists_decode_legal_iff⟩

/-- Settles O1: the word of each row is the encoder's, so `decode_encode_cmd` leaves the row of the opcode map. -/
theorem opcodeMapDecodes : Obligations.OpcodeMapDecodes := by
  unfold Obligations.OpcodeMapDecodes
  intro a b
  exact ⟨decode_encode_cmd .chkplat a b, decode_encode_cmd (.construct a b) a b, decode_encode_cmd .getfid a b,
    decode_encode_cmd .getdid a b, decode_encode_cmd .getvid a b, decode_encode_cmd (.setfid a) a b,
    decode_encode_cmd (.setdid a) a b, decode_encode_cmd (.setvid a) a b, decode_encode_cmd .encode a b,
    decode_encode_cmd (.ratio a b) a b, decode_encode_cmd (.freq a b) a b, decode_encode_cmd (.vcore a) a b,
    decode_encode_cmd .ratior a b, decode_encode_cmd .freqr a b, decode_encode_cmd .vcorer a b,
    decode_encode_cmd .describe a b, decode_encode_cmd (.addrfor a) a b, decode_encode_cmd .apply a b⟩

end Sys2Proof
end

section
/-! PROOFS. The command interface (spec/30_encoding.md R90, R91, R98): an idle block takes up the presented word, and a busy one
takes the step it would take with no word presented. -/

namespace Sys2Proof.Machine

/-! ### Acceptance -/

/-- An idle block accepts the presented command and takes it off the host's list (R90). -/
theorem step_of_command {s : State} {c : Command} {rest : List HostMove} (hc : s.cfg.wf = true) (hb : s.busy = false)
    (hh : s.host = .command c :: rest) : step s = acceptCommand c { s with host := rest } := by
  simp [step, stepBody, idleStep, hc, hb, hh]

theorem acceptCommand_of_legal {c : Command} {i : Instr} (h : decode c = .legal i) (s : State) :
    acceptCommand c s = exec i s := by
  rw [acceptCommand, h]

/-- A word that decodes to no command is accepted all the same (R98). -/
theorem acceptCommand_of_not_legal {c : Command} (h : ¬ ∃ i, decode c = .legal i) (s : State) :
    acceptCommand c s = .next (execIllegal c.cmd s) := by
  cases hd : decode c with
  | legal i => exact absurd ⟨i, hd⟩ h
  | illegal why => rw [acceptCommand, hd]

/-- What an illegal word leaves: STATUS, and the zero-extended word in ERR_VALUE (R98). -/
theorem execIllegal_eq_endedWith (w : CmdWord) (s : State) :
    execIllegal w s = endedWith s 0x14#8 { ErrInfo.zero with value := BitVec.ofNat 64 w.toNat } := by
  rw [BitVec.ofNat_toNat]
  rfl

/-- Settles O4: `step_of_command`, on a word that decodes. -/
theorem stepExecutesThePresentedCommand : Obligations.StepExecutesThePresentedCommand := by
  unfold Obligations.StepExecutesThePresentedCommand
  intro s c i rest hc hb hh hd
  rw [step_of_command hc hb hh, acceptCommand_of_legal hd]

/-- Settles O3: the words of R98 are those outside `exists_decode_legal_iff`. -/
theorem illegalWordRaisesIllegalCommand : Obligations.IllegalWordRaisesIllegalCommand := by
  unfold Obligations.IllegalWordRaisesIllegalCommand
  intro s c rest hc hb hh hword
  have hillegal : ¬ ∃ i, decode c = .legal i := by
    rw [exists_decode_legal_iff]
    omega
  rw [step_of_command hc hb hh, acceptCommand_of_not_legal hillegal, execIllegal_eq_endedWith]
  rfl

/-! ### Waiting: no answer of the collaborator reaches the host's moves -/

/-- The same block with other moves of the host to come. -/
def State.withHost (s : State) (moves : List HostMove) : State := { s with host := moves }

/-- An outcome with other moves of the host to come in its next state. -/
def outcomeWithHost (o : Host.Outcome State Fault Refusal) (moves : List HostMove) : Host.Outcome State Fault Refusal :=
  match o with
  | .next t => .next (t.withHost moves)
  | .fault r => .fault r
  | .refused r => .refused r

section
variable (s : State) (moves : List HostMove)

@[simp] theorem State.withHost_cfg : (s.withHost moves).cfg = s.cfg := rfl
@[simp] theorem State.withHost_seq : (s.withHost moves).seq = s.seq := rfl
@[simp] theorem State.withHost_env : (s.withHost moves).env = s.env := rfl
@[simp] theorem State.withHost_draws : (s.withHost moves).draws = s.draws := rfl

variable (d : Draw)

theorem platStep_withHost : platStep d (s.withHost moves) = (platStep d s).withHost moves := by
  unfold platStep
  rw [State.withHost_env]
  cases platAnswer s.env d <;> rfl

theorem topoStep_withHost : topoStep d (s.withHost moves) = (topoStep d s).withHost moves := by
  simp only [topoStep, State.withHost_env]
  cases topoAnswer s.env d with
  | err c => rfl
  | ok n => simp only [apply_ite (State.withHost · moves)]; rfl

theorem tscReadStep_withHost : tscReadStep d (s.withHost moves) = (tscReadStep d s).withHost moves := by
  simp only [tscReadStep, State.withHost_env, State.withHost_cfg, State.withHost_seq]
  cases readAnswer s.env d s.cfg.hwcrAddr (coreMask s.seq.k) <;> rfl

theorem tscWriteStep_withHost : tscWriteStep d (s.withHost moves) = (tscWriteStep d s).withHost moves := by
  unfold tscWriteStep
  cases writeAnswer d with
  | err c => rfl
  | ok _ => simp only [apply_ite (State.withHost · moves)]; rfl

theorem broadcastStep_withHost : broadcastStep d (s.withHost moves) = (broadcastStep d s).withHost moves := by
  unfold broadcastStep
  cases writeAnswer d with
  | err c => rfl
  | ok _ => simp only [apply_ite (State.withHost · moves)]; rfl

theorem answerStep_withHost : answerStep d (s.withHost moves) = (answerStep d s).withHost moves := by
  simp only [answerStep, State.withHost_seq]
  cases s.seq.phase with
  | idle => rfl
  | platWait => exact platStep_withHost s moves d
  | topoWait => exact topoStep_withHost s moves d
  | tscRdWait => exact tscReadStep_withHost s moves d
  | tscWrWait => exact tscWriteStep_withHost s moves d
  | bcWrWait => exact broadcastStep_withHost s moves d

/-- A waiting step neither reads nor changes the host's moves, whether it advances, stays or faults. -/
theorem waitStep_withHost : waitStep (s.withHost moves) = outcomeWithHost (waitStep s) moves := by
  by_cases hp : s.seq.phase = .idle
  · simp [waitStep, hp, outcomeWithHost]
  · cases hd : s.draws with
    | nil => simp [waitStep, hp, hd, outcomeWithHost]
    | cons d rest =>
      simp only [waitStep, State.withHost_seq, State.withHost_draws, hp, hd, if_false, outcomeWithHost]
      exact congrArg _ (answerStep_withHost { s with draws := rest } moves d)

end

/-! ### The busy block -/

/-- A busy block whose host neither resets it nor polls waits for its answer (R91). -/
theorem step_of_busy {s : State} (hc : s.cfg.wf = true) (hb : s.busy = true) (hreset : ∀ rest, s.host ≠ .reset :: rest)
    (hpoll : ∀ rest, s.host ≠ .poll :: rest) : step s = waitStep s := by
  rw [step, if_pos hc, stepBody, if_pos hb]
  cases hh : s.host with
  | nil => simp only [busyStep, hh]
  | cons m rest =>
    cases m with
    | reset => exact absurd hh (hreset rest)
    | poll => exact absurd hh (hpoll rest)
    | command | outsideWrite => simp only [busyStep, hh]

/-- The step of a busy block sees no move but a reset or a poll, and keeps the moves it does not see (R91, assumption 9). -/
theorem step_withHost_of_busy {s : State} {moves : List HostMove} (hb : s.busy = true) (hh : s.host = [])
    (hreset : ∀ rest, moves ≠ .reset :: rest) (hpoll : ∀ rest, moves ≠ .poll :: rest) :
    step (s.withHost moves) = outcomeWithHost (step s) moves := by
  by_cases hc : s.cfg.wf = true
  · have hheld : step (s.withHost moves) = waitStep (s.withHost moves) := step_of_busy hc hb hreset hpoll
    have hfree : step s = waitStep s := step_of_busy hc hb (by simp [hh]) (by simp [hh])
    rw [hheld, hfree, waitStep_withHost]
  · have hheld : step (s.withHost moves) = .refused .configIllFormed := step_refused_of_not_wf hc
    rw [hheld, step_refused_of_not_wf hc]
    rfl

/-- Settles O5: `step_withHost_of_busy`, for a list of moves that begins with neither a reset nor a poll. -/
theorem busyBlockHoldsCommands : Obligations.BusyBlockHoldsCommands := by
  unfold Obligations.BusyBlockHoldsCommands
  intro s m rest hb hh hreset hpoll
  have hs : s = ({ s with host := [] } : State).withHost (m :: rest) := by rw [State.withHost, ← hh]
  have hstep : step s = outcomeWithHost (step { s with host := [] }) (m :: rest) :=
    (congrArg step hs).trans (step_withHost_of_busy hb rfl (by simp [hreset]) (by simp [hpoll]))
  rw [hstep]
  cases step { s with host := [] } <;> rfl

end Sys2Proof.Machine
end

section
/-! PROOFS. The codec commands one by one (spec/40_codec.md R121 to R124, R131 to R134): the whole next state in each of their
exclusive cases. The getters and ENCODE share one specification, and the three setters another. -/

namespace Sys2Proof.Machine

/-! ### The fields of a register value, numerically -/

/-- A field of a register value as a number (spec/10_state.md R33). -/
def fieldValue (f : Field) (raw : Word) : Nat := raw.toNat / 2 ^ fieldLo f % 2 ^ fieldWidth f

/-- R125: extraction is zero-extended. -/
theorem getField_eq_fieldValue (f : Field) (raw : Word) : getField f raw = BitVec.ofNat 64 (fieldValue f raw) := by
  apply BitVec.eq_of_toNat_eq
  cases f <;> simp [getField, fieldValue, fieldLo, fieldWidth, Nat.shiftRight_eq_div_pow]

/-- FID is the lowest field, so no shift reaches it. -/
theorem fieldValue_fid (raw : Word) : fieldValue .fid raw = raw.toNat % 2 ^ 8 :=
  congrArg (· % 2 ^ 8) (Nat.div_one raw.toNat)

/-! ### CONSTRUCT -/

theorem indexInRange_eq_true {index : Word} (h : index.toNat ≤ 7) : indexInRange index = true := decide_eq_true h

/-- R33: the enabled bit is the highest. -/
theorem enabledBit_eq_decide (raw : Word) : enabledBit raw = decide (2 ^ 63 ≤ raw.toNat) :=
  (BitVec.msb_eq_getLsbD_last raw).symm.trans (BitVec.msb_eq_decide raw)

theorem execConstruct_of_index_above {index : Word} (h : 7 < index.toNat) (raw : Word) (s : State) :
    execConstruct index raw s = .next { endedWith s 0x03#8 { ErrInfo.zero with value := index, limit := 7#64 } with
      slot := { s.slot with valid := false } } :=
  if_pos (decide_eq_false (Nat.not_le.mpr h))

theorem execConstruct_of_disabled {index raw : Word} (hi : index.toNat ≤ 7) (hr : enabledBit raw = false) (s : State) :
    execConstruct index raw s = .next { endedWith s 0x02#8 { ErrInfo.zero with value := raw } with
      slot := { s.slot with valid := false } } := by
  simp only [execConstruct, indexInRange_eq_true hi, hr, if_true, Bool.true_eq_false, if_false]
  rfl

theorem execConstruct_of_enabled {index raw : Word} (hi : index.toNat ≤ 7) (hr : enabledBit raw = true) (s : State) :
    execConstruct index raw s = .next { endedWith s 0x00#8 ErrInfo.zero with slot := ⟨true, index.setWidth 3, raw⟩ } := by
  simp only [execConstruct, indexInRange_eq_true hi, hr, Bool.true_eq_false, if_false]
  rfl

/-- Settles O13: one lemma per case of R121, with bit 63 read as the comparison with `2 ^ 63`. -/
theorem constructFillsOrEmptiesTheSlot : Obligations.ConstructFillsOrEmptiesTheSlot := by
  unfold Obligations.ConstructFillsOrEmptiesTheSlot
  intro s index raw
  refine ⟨rfl, fun hi => execConstruct_of_index_above hi raw s, fun hi hr => ?_, fun hi hr => ?_⟩
  · have hbit : enabledBit raw = false := by rw [enabledBit_eq_decide, decide_eq_false (Nat.not_le.mpr hr)]
    exact execConstruct_of_disabled hi hbit s
  · have hbit : enabledBit raw = true := by rw [enabledBit_eq_decide, decide_eq_true hr]
    rw [BitVec.ofNat_toNat]
    exact execConstruct_of_enabled hi hbit s

/-! ### The commands that deliver a function of the raw value -/

theorem deliverFromSlot_of_held {s : State} (h : s.slot.valid = true) (f : Word → Word) :
    deliverFromSlot f s =
      { endedWith s 0x00#8 ErrInfo.zero with res := { s.res with res0 := f s.slot.raw } } :=
  if_pos h

theorem deliverFromSlot_of_empty {s : State} (h : s.slot.valid = false) (f : Word → Word) :
    deliverFromSlot f s = endedWith s 0x11#8 ErrInfo.zero :=
  if_neg (ne_true_of_eq_false h)

/-- A command that delivers `f` of the slot, where `f` has the value `w` there: `w` in RES0, or `NoRegister`. -/
theorem exec_deliverFromSlot {i : Instr} {s : State} {f : Word → Word} {w : Word} (hexec : exec i s = .next (deliverFromSlot f s))
    (hw : f s.slot.raw = w) :
    (s.slot.valid = true →
      exec i s = .next { endedWith s 0x00#8 ErrInfo.zero with res := { s.res with res0 := w } }) ∧
    (s.slot.valid = false → exec i s = .next (endedWith s 0x11#8 ErrInfo.zero)) := by
  subst hw
  exact ⟨fun h => by rw [hexec, deliverFromSlot_of_held h], fun h => by rw [hexec, deliverFromSlot_of_empty h]⟩

/-- Settles O14: `exec_deliverFromSlot` with the FID field. -/
theorem getfidDeliversBitsSevenToZero : Obligations.GetfidDeliversBitsSevenToZero := by
  unfold Obligations.GetfidDeliversBitsSevenToZero
  intro s
  have hfield := getField_eq_fieldValue .fid s.slot.raw
  rw [fieldValue_fid] at hfield
  exact ⟨rfl, exec_deliverFromSlot rfl hfield⟩

/-- Settles O15: `exec_deliverFromSlot` with the DID field. -/
theorem getdidDeliversBitsThirteenToEight : Obligations.GetdidDeliversBitsThirteenToEight := by
  unfold Obligations.GetdidDeliversBitsThirteenToEight
  intro s
  exact ⟨rfl, exec_deliverFromSlot rfl (getField_eq_fieldValue .did s.slot.raw)⟩

/-- Settles O16: `exec_deliverFromSlot` with the VID field. -/
theorem getvidDeliversBitsTwentyOneToFourteen : Obligations.GetvidDeliversBitsTwentyOneToFourteen := by
  unfold Obligations.GetvidDeliversBitsTwentyOneToFourteen
  intro s
  exact ⟨rfl, exec_deliverFromSlot rfl (getField_eq_fieldValue .vid s.slot.raw)⟩

/-- Settles O20: `exec_deliverFromSlot` with the raw value itself. -/
theorem encodeDeliversTheRawValue : Obligations.EncodeDeliversTheRawValue := by
  unfold Obligations.EncodeDeliversTheRawValue
  intro s
  exact ⟨rfl, exec_deliverFromSlot rfl rfl⟩

/-! ### The setters -/

/-- What a setter reports of a value outside the bounds of its field (R131 to R133). -/
def boundInfo (f : Field) (bound : BitVec 2) (limit : Nat) (v : Word) : ErrInfo :=
  { ErrInfo.zero with field := fieldCode f, bound := bound, limit := BitVec.ofNat 64 limit, value := v }

section
variable {s : State} {f : Field} {v : Word}

theorem updateField_of_empty (h : s.slot.valid = false) : updateField f v s = endedWith s 0x11#8 ErrInfo.zero :=
  if_pos h

variable (h : s.slot.valid = true)
include h

theorem updateField_of_below (hv : v.toNat < fieldMin s.cfg f) :
    updateField f v s = endedWith s 0x04#8 (boundInfo f boundBelowMin (fieldMin s.cfg f) v) :=
  (if_neg (ne_false_of_eq_true h)).trans (if_pos hv)

theorem updateField_of_above (hmin : fieldMin s.cfg f ≤ v.toNat) (hv : fieldMax s.cfg f < v.toNat) :
    updateField f v s = endedWith s 0x04#8 (boundInfo f boundAboveMax (fieldMax s.cfg f) v) :=
  (if_neg (ne_false_of_eq_true h)).trans ((if_neg (Nat.not_lt.mpr hmin)).trans (if_pos hv))

theorem updateField_of_within (hmin : fieldMin s.cfg f ≤ v.toNat) (hmax : v.toNat ≤ fieldMax s.cfg f) :
    updateField f v s = { endedWith s 0x00#8 ErrInfo.zero with
      slot := { s.slot with raw := setBits s.slot.raw (fieldLo f) (fieldWidth f) v } } :=
  (if_neg (ne_false_of_eq_true h)).trans ((if_neg (Nat.not_lt.mpr hmin)).trans (if_neg (Nat.not_lt.mpr hmax)))

end

/-- The setter of field `f`, whose read-modify-write of the slot (R130) comes to `new`, in its four cases. -/
theorem exec_updateField {i : Instr} {s : State} {f : Field} {v new : Word} (hexec : exec i s = .next (updateField f v s))
    (hnew : setBits s.slot.raw (fieldLo f) (fieldWidth f) v = new) :
    (s.slot.valid = false → exec i s = .next (endedWith s 0x11#8 ErrInfo.zero)) ∧
    (s.slot.valid = true → v.toNat < fieldMin s.cfg f →
      exec i s = .next (endedWith s 0x04#8 (boundInfo f boundBelowMin (fieldMin s.cfg f) v))) ∧
    (s.slot.valid = true → fieldMin s.cfg f ≤ v.toNat → fieldMax s.cfg f < v.toNat →
      exec i s = .next (endedWith s 0x04#8 (boundInfo f boundAboveMax (fieldMax s.cfg f) v))) ∧
    (s.slot.valid = true → fieldMin s.cfg f ≤ v.toNat → v.toNat ≤ fieldMax s.cfg f →
      exec i s = .next { endedWith s 0x00#8 ErrInfo.zero with slot := { s.slot with raw := new } }) := by
  subst hnew
  rw [hexec]
  exact ⟨fun h => congrArg _ (updateField_of_empty h), fun h hv => congrArg _ (updateField_of_below h hv),
    fun h hmin hv => congrArg _ (updateField_of_above h hmin hv),
    fun h hmin hmax => congrArg _ (updateField_of_within h hmin hmax)⟩

/-- The read-modify-write with its mask written out. -/
theorem setBits_of_mask {lo width : Nat} {mask : Word} (h : ~~~(BitVec.ofNat 64 ((2 ^ width - 1) <<< lo)) = mask)
    (raw v : Word) : setBits raw lo width v = (raw &&& mask) ||| (v <<< lo) := by
  rw [setBits, h]

/-- Settles O17: `exec_updateField` for FID, whose value is not shifted. -/
theorem setfidCommitsWithinBounds : Obligations.SetfidCommitsWithinBounds := by
  unfold Obligations.SetfidCommitsWithinBounds
  intro s v
  have hmask := setBits_of_mask (lo := fieldLo .fid) (width := fieldWidth .fid) (mask := 0xFFFFFFFFFFFFFF00#64) (by decide)
    s.slot.raw v
  have hshift : v <<< fieldLo .fid = v := BitVec.shiftLeft_zero v
  rw [hshift] at hmask
  exact ⟨rfl, rfl, rfl, exec_updateField rfl hmask⟩

/-- Settles O18: `exec_updateField` for DID. -/
theorem setdidCommitsWithinBounds : Obligations.SetdidCommitsWithinBounds := by
  unfold Obligations.SetdidCommitsWithinBounds
  intro s v
  exact ⟨rfl, rfl, rfl, exec_updateField (f := .did) rfl (setBits_of_mask (by decide) s.slot.raw v)⟩

/-- Settles O19: `exec_updateField` for VID. -/
theorem setvidCommitsWithinBounds : Obligations.SetvidCommitsWithinBounds := by
  unfold Obligations.SetvidCommitsWithinBounds
  intro s v
  exact ⟨rfl, rfl, rfl, exec_updateField (f := .vid) rfl (setBits_of_mask (by decide) s.slot.raw v)⟩

end Sys2Proof.Machine
end

section
/-! PROOFS. The laws of the codec over several bits, commands and steps (spec/40_codec.md R135 to R137, R140): a setter keeps
what lies outside its field, CONSTRUCT and ENCODE are inverse, and a run without CONSTRUCT keeps or commits each field. -/

namespace Sys2Proof.Machine

/-! ### One setter (R136) -/

/-- A setter that ended with `OK` found a slot and a value within the bounds. -/
theorem updateField_of_status_ok {f : Field} {v : Word} {s : State} (h : (updateField f v s).status = 0x00#8) :
    s.slot.valid = true ∧ fieldMin s.cfg f ≤ v.toNat ∧ v.toNat ≤ fieldMax s.cfg f := by
  obtain ⟨_, he⟩ | ⟨_, _, _, _, _, he⟩ | ⟨hheld, hmin, hmax, _⟩ := updateField_cases f v s
  · rw [he] at h; exact absurd h (by simp [statusCode])
  · rw [he] at h; exact absurd h (by simp [statusCode])
  · exact ⟨hheld, hmin, hmax⟩

/-- R136 for the setter of field `f`. -/
theorem updateField_changes_only_field {f : Field} {v : Word} {s : State} (hc : s.cfg.wf = true)
    (h : (updateField f v s).status = 0x00#8) :
    (∀ b < 64, (b < fieldLo f ∨ fieldLo f + fieldWidth f ≤ b) →
      (updateField f v s).slot.raw.getLsbD b = s.slot.raw.getLsbD b) ∧
    fieldValue f (updateField f v s).slot.raw = v.toNat ∧
    (updateField f v s).slot.valid = s.slot.valid ∧ (updateField f v s).slot.index = s.slot.index := by
  obtain ⟨hheld, hmin, hmax⟩ := updateField_of_status_ok h
  have hfit : v.toNat < 2 ^ fieldWidth f := Nat.lt_of_le_of_lt hmax (fieldMax_lt hc f)
  rw [updateField_of_within hheld hmin hmax]
  refine ⟨fun b hb hout => ?_, setBits_own s.slot.raw f v hfit, rfl, rfl⟩
  exact (setBits_getLsbD s.slot.raw f v hfit b hb).trans (if_neg (by omega))

/-- Settles O21: `updateField_changes_only_field` for each of the three setters. -/
theorem settersChangeOnlyTheirField : Obligations.SettersChangeOnlyTheirField := by
  unfold Obligations.SettersChangeOnlyTheirField
  intro s v i lo width t hc hi h hstatus
  obtain ⟨rfl, rfl, rfl⟩ | ⟨rfl, rfl, rfl⟩ | ⟨rfl, rfl, rfl⟩ := hi
  · cases h; exact updateField_changes_only_field (f := .fid) hc hstatus
  · cases h; exact updateField_changes_only_field (f := .did) hc hstatus
  · cases h; exact updateField_changes_only_field (f := .vid) hc hstatus

/-! ### CONSTRUCT, then ENCODE (R135) -/

/-- An idle block that is presented the word of a command executes it. -/
theorem step_of_encoded {s : State} {i : Instr} {rest : List HostMove} (hc : s.cfg.wf = true) (hb : s.busy = false)
    (hh : s.host = .command (encode i) :: rest) : step s = exec i { s with host := rest } := by
  rw [step_of_command hc hb hh, acceptCommand_of_legal (decode_encode i)]

/-- Settles O22: CONSTRUCT leaves the block idle with the value in the slot, where ENCODE finds it. -/
theorem constructThenEncodeGivesTheValueBack : Obligations.ConstructThenEncodeGivesTheValueBack := by
  unfold Obligations.ConstructThenEncodeGivesTheValueBack
  intro s index raw rest hc hb hi hr hh
  obtain ⟨u, hconstruct, hcfg, hidle, hhost, hslot⟩ : ∃ u, step s = .next u ∧ u.cfg = s.cfg ∧ u.busy = false ∧
      u.host = .command (encode .encode) :: rest ∧ u.slot = ⟨true, index.setWidth 3, raw⟩ :=
    ⟨_, (step_of_encoded hc hb hh).trans (execConstruct_of_enabled hi hr _), rfl, rfl, rfl, rfl⟩
  have hheld : u.slot.valid = true := congrArg Slot.valid hslot
  have hencode := (step_of_encoded (hcfg ▸ hc) hidle hhost).trans
    (congrArg Host.Outcome.next (deliverFromSlot_of_held (s := { u with host := rest }) hheld fun raw => raw))
  exact ⟨_, (run_succ_of_next hconstruct 1).trans (run_succ_of_next hencode 0), congrArg Slot.raw hslot, rfl, rfl, hslot⟩

/-! ### Runs without CONSTRUCT and reset (R136, R137, R140) -/

/-- What a command that is no CONSTRUCT can do to the slot: leave it, or commit one value within the bounds of its field. -/
inductive Slot.Commits (c : Config) (sl : Slot) : Slot → Prop where
  | left : Slot.Commits c sl sl
  | committed (f : Field) (v : Word) (hmin : fieldMin c f ≤ v.toNat) (hmax : v.toNat ≤ fieldMax c f) :
      Slot.Commits c sl { sl with raw := setBits sl.raw (fieldLo f) (fieldWidth f) v }

theorem updateField_commits (f : Field) (v : Word) (s : State) : s.slot.Commits s.cfg (updateField f v s).slot := by
  obtain ⟨_, he⟩ | ⟨_, _, _, _, _, he⟩ | ⟨_, hmin, hmax, he⟩ := updateField_cases f v s
  · rw [he]; exact .left
  · rw [he]; exact .left
  · rw [he]; exact .committed f v hmin hmax

/-- A command that is neither a CONSTRUCT nor a setter leaves the slot (R120, spec/41_derived.md R171). -/
theorem exec_commits {i : Instr} {s t : State} (h : exec i s = .next t) (hi : ∀ index raw, i ≠ .construct index raw) :
    s.slot.Commits s.cfg t.slot := by
  have left (heq : t.slot = s.slot) : s.slot.Commits s.cfg t.slot := heq ▸ .left
  cases i with
  | construct index raw => exact absurd rfl (hi index raw)
  | setfid v | setdid v | setvid v => cases h; exact updateField_commits _ v s
  | getfid | getdid | getvid | encode | vcorer => cases h; exact left (deliverFromSlot_slot _ s)
  | ratio fid did | freq fid did => cases h; exact left (staticQuotient_slot _ fid did s)
  | ratior | freqr => cases h; exact left (slotQuotient_slot _ s)
  | chkplat | vcore | describe | addrfor | apply =>
    simp only [exec, execChkplat, execVcore, execDescribe, execAddrfor, execApply] at h
    repeat' split at h
    all_goals cases h; exact left rfl

/-- From `old` to `new` a held slot stays held at its index, the bits above its fields stay, and each field keeps its value or
takes one within its bounds. -/
structure Slot.Keeps (c : Config) (old new : Slot) : Prop where
  valid : new.valid = true
  index : new.index = old.index
  above : new.raw.toNat / 2 ^ 22 = old.raw.toNat / 2 ^ 22
  field (f : Field) : fieldValue f new.raw = fieldValue f old.raw ∨
    fieldMin c f ≤ fieldValue f new.raw ∧ fieldValue f new.raw ≤ fieldMax c f

theorem Slot.Keeps.refl (c : Config) {sl : Slot} (h : sl.valid = true) : sl.Keeps c sl := ⟨h, rfl, rfl, fun _ => .inl rfl⟩

theorem Slot.Keeps.trans {c : Config} {a b d : Slot} (hab : a.Keeps c b) (hbd : b.Keeps c d) : a.Keeps c d where
  valid := hbd.valid
  index := hbd.index.trans hab.index
  above := hbd.above.trans hab.above
  field f := by
    obtain hkept | hin := hbd.field f
    · rw [hkept]; exact hab.field f
    · exact .inr hin

/-- The fields do not overlap (spec/10_state.md R33). -/
theorem fields_apart {f g : Field} (h : g ≠ f) :
    fieldLo g + fieldWidth g ≤ fieldLo f ∨ fieldLo f + fieldWidth f ≤ fieldLo g := by
  revert h
  cases f <;> cases g <;> decide

/-- Every field lies below bit 22 (R33). -/
theorem field_below (f : Field) : fieldLo f + fieldWidth f ≤ 22 := by
  cases f <;> decide

/-- The bits above the fields stay, since a committed value fits in its field. -/
theorem setBits_div_above (raw : Word) (f : Field) (v : Word) (hv : v.toNat < 2 ^ fieldWidth f) :
    (setBits raw (fieldLo f) (fieldWidth f) v).toNat / 2 ^ 22 = raw.toNat / 2 ^ 22 := by
  have hhigh (w : Word) : w.toNat / 2 ^ 22 % 2 ^ 42 = w.toNat / 2 ^ 22 := by have := w.isLt; omega
  rw [← hhigh (setBits _ _ _ _), ← hhigh raw]
  exact setBits_apart raw f v hv 22 42 (.inr (field_below f)) (by decide)

theorem Slot.Commits.keeps {c : Config} (hc : c.wf = true) {a b : Slot} (h : a.Commits c b) (ha : a.valid = true) :
    a.Keeps c b := by
  cases h with
  | left => exact .refl c ha
  | committed f v hmin hmax =>
    have hfit : v.toNat < 2 ^ fieldWidth f := Nat.lt_of_le_of_lt hmax (fieldMax_lt hc f)
    refine ⟨ha, rfl, setBits_div_above a.raw f v hfit, fun g => ?_⟩
    by_cases hg : g = f
    · subst hg
      have hown : fieldValue g (setBits a.raw (fieldLo g) (fieldWidth g) v) = v.toNat := setBits_own a.raw g v hfit
      exact .inr ⟨hmin.trans_eq hown.symm, hown.trans_le hmax⟩
    · have h64 := field_below g
      exact .inl (setBits_apart a.raw f v hfit _ _ (fields_apart hg) (by omega))

theorem keepsRegister_tail {m : HostMove} {rest : List HostMove} (h : keepsRegister (m :: rest) = true) :
    keepsRegister rest = true := by
  cases m with
  | command c => exact (Bool.and_eq_true_iff.mp h).2
  | reset => exact absurd h Bool.false_ne_true
  | poll | outsideWrite => exact h

theorem step_keepsRegister {s t : State} (h : step s = .next t) (hk : keepsRegister s.host = true) :
    keepsRegister t.host = true := by
  obtain heq | ⟨m, heq⟩ := step_host h
  · rwa [heq]
  · exact keepsRegister_tail (heq ▸ hk)

/-- The moves of such a run present no CONSTRUCT. -/
theorem ne_construct_of_keepsRegister {c : Command} {i : Instr} {rest : List HostMove} (hd : decode c = .legal i)
    (h : keepsRegister (.command c :: rest) = true) (index raw : Word) : i ≠ .construct index raw := by
  rintro rfl
  simp [keepsRegister, hd] at h

/-- R140 as a step lemma. -/
theorem step_keeps_slot {s t : State} (h : step s = .next t) (hk : keepsRegister s.host = true)
    (hs : s.slot.valid = true) : s.slot.Keeps s.cfg t.slot := by
  obtain ⟨hc, hm⟩ := step_moves h
  cases hm with
  | reset rest hh => rw [hh] at hk; exact absurd hk Bool.false_ne_true
  | command c i rest _ _ hh hd he =>
    rw [hh] at hk
    have hcommits := exec_commits he (ne_construct_of_keepsRegister hd hk)
    exact hcommits.keeps hc hs
  | answered left d rest _ hp =>
    rw [(answered_advances hp d left rest).slot]
    exact .refl s.cfg hs
  | illegal | outside | poll | idle | unanswered => exact .refl s.cfg hs

theorem run_keeps_slot {n : Nat} {s t : State} (hk : keepsRegister s.host = true) (hs : s.slot.valid = true)
    (h : runsTo n s t) : s.slot.Keeps s.cfg t.slot := by
  induction n generalizing s with
  | zero => cases h; exact .refl _ hs
  | succ n ih =>
    obtain ⟨u, hu, hrun⟩ := run_succ_next h
    have hfirst := step_keeps_slot hu hk hs
    have hlater := ih (step_keepsRegister hu hk) hfirst.valid hrun
    rw [step_cfg hu] at hlater
    exact hfirst.trans hlater

/-- Settles O24: `run_keeps_slot`, by induction on the run. -/
theorem fieldsHoldConstructedOrCommittedValues : Obligations.FieldsHoldConstructedOrCommittedValues := by
  unfold Obligations.FieldsHoldConstructedOrCommittedValues
  intro n s t hk hs h
  obtain ⟨hvalid, hindex, habove, hfield⟩ := run_keeps_slot hk hs h
  have hfid := hfield .fid
  rw [fieldValue_fid, fieldValue_fid] at hfid
  exact ⟨hvalid, hindex, habove, hfid, hfield .did, hfield .vid⟩

end Sys2Proof.Machine
end

section
/-! PROOFS. The stale index and raw value of an emptied slot (spec/40_codec.md R121): a command finds the slot empty before it
would read them, a waiting step reads no slot, and CONSTRUCT and reset overwrite them. So two runs that differ there agree. -/

namespace Sys2Proof.Machine

/-- The same machine with another slot. -/
def State.withSlot (s : State) (sl : Slot) : State := { s with slot := sl }

/-- An outcome with another slot in its next state. -/
def outcomeWithSlot (o : Host.Outcome State Fault Refusal) (sl : Slot) : Host.Outcome State Fault Refusal :=
  match o with
  | .next t => .next (t.withSlot sl)
  | .fault r => .fault r
  | .refused r => .refused r

/-- Two machines that are the same, or differ only in what an empty slot still holds. -/
def SameButStale (s u : State) : Prop :=
  u = s ∨ s.slot.valid = false ∧ ∃ sl : Slot, sl.valid = false ∧ u = s.withSlot sl

/-- Where `o` is a next state, `o'` is one that differs from it at most in what an empty slot still holds. -/
def SameOutcome (o o' : Host.Outcome State Fault Refusal) : Prop :=
  ∀ t, o = .next t → ∃ u, o' = .next u ∧ SameButStale t u

theorem SameButStale.next {s u : State} (h : SameButStale s u) : SameOutcome (.next s) (.next u) := by
  intro t ht
  cases ht
  exact ⟨u, rfl, h⟩

/-- What the host, the collaborator and the later commands can see of the two machines is equal. -/
theorem SameButStale.agree {s u : State} (h : SameButStale s u) :
    u.hostView = s.hostView ∧ u.history = s.history ∧ u.env = s.env ∧ u.guard = s.guard ∧ u.slot.valid = s.slot.valid ∧
      (s.slot.valid = true → u.slot = s.slot) := by
  obtain rfl | ⟨hs, sl, hsl, rfl⟩ := h
  · exact ⟨rfl, rfl, rfl, rfl, rfl, fun _ => rfl⟩
  · exact ⟨rfl, rfl, rfl, rfl, hsl.trans hs.symm, fun hv => absurd hv (ne_true_of_eq_false hs)⟩

section
variable (s : State) (sl : Slot)

@[simp] theorem State.withSlot_slot : (s.withSlot sl).slot = sl := rfl
@[simp] theorem State.withSlot_busy : (s.withSlot sl).busy = s.busy := rfl
@[simp] theorem State.withSlot_seq : (s.withSlot sl).seq = s.seq := rfl
@[simp] theorem State.withSlot_cfg : (s.withSlot sl).cfg = s.cfg := rfl
@[simp] theorem State.withSlot_env : (s.withSlot sl).env = s.env := rfl
@[simp] theorem State.withSlot_host : (s.withSlot sl).host = s.host := rfl
@[simp] theorem State.withSlot_draws : (s.withSlot sl).draws = s.draws := rfl

/-! ### What reads no slot -/

theorem answerStep_withSlot (d : Draw) : answerStep d (s.withSlot sl) = (answerStep d s).withSlot sl := by
  simp only [answerStep, State.withSlot_seq]
  cases s.seq.phase with
  | idle => rfl
  | platWait =>
    simp only [platStep, State.withSlot_env, apply_ite (State.withSlot · sl)]
    rfl
  | topoWait =>
    simp only [topoStep, State.withSlot_env]
    cases topoAnswer s.env d with
    | err c => rfl
    | ok n => simp only [apply_ite (State.withSlot · sl)]; rfl
  | tscRdWait =>
    simp only [tscReadStep, State.withSlot_env, State.withSlot_cfg, State.withSlot_seq]
    cases readAnswer s.env d s.cfg.hwcrAddr (coreMask s.seq.k) <;> rfl
  | tscWrWait =>
    simp only [tscWriteStep]
    cases writeAnswer d with
    | err c => rfl
    | ok _ => simp only [apply_ite (State.withSlot · sl)]; rfl
  | bcWrWait =>
    simp only [broadcastStep]
    cases writeAnswer d with
    | err c => rfl
    | ok _ => simp only [apply_ite (State.withSlot · sl)]; rfl

theorem staticQuotient_withSlot (scale : Nat) (fid did : Word) :
    staticQuotient scale fid did (s.withSlot sl) = (staticQuotient scale fid did s).withSlot sl := by
  simp only [staticQuotient, deliverQuotient, apply_ite (State.withSlot · sl)]
  rfl

/-- A reset overwrites the whole slot (spec/10_state.md R42). -/
theorem applyReset_withSlot : applyReset (s.withSlot sl) = applyReset s := by
  have hr : outstanding (s.withSlot sl) = outstanding s := rfl
  simp only [applyReset, abandonRequest, hr, State.withSlot_draws]
  cases outstanding s with
  | none => rfl
  | some r => cases s.draws <;> rfl

/-- CONSTRUCT fills the slot with its operands, or leaves it empty (R121). -/
theorem execConstruct_sameOutcome (index raw : Word) :
    SameOutcome (execConstruct index raw s) (execConstruct index raw (s.withSlot sl)) := by
  by_cases hi : index.toNat ≤ 7
  · cases hr : enabledBit raw with
    | true =>
      rw [execConstruct_of_enabled hi hr, execConstruct_of_enabled hi hr]
      exact SameButStale.next (.inl rfl)
    | false =>
      rw [execConstruct_of_disabled hi hr, execConstruct_of_disabled hi hr]
      exact SameButStale.next (.inr ⟨rfl, { sl with valid := false }, rfl, rfl⟩)
  · rw [execConstruct_of_index_above (Nat.not_le.mp hi), execConstruct_of_index_above (Nat.not_le.mp hi)]
    exact SameButStale.next (.inr ⟨rfl, { sl with valid := false }, rfl, rfl⟩)

end

section
variable {s : State} {sl : Slot} (hs : s.slot.valid = false) (hsl : sl.valid = false)
include hs hsl

theorem SameButStale.of_empty : SameButStale s (s.withSlot sl) := .inr ⟨hs, sl, hsl, rfl⟩

/-! ### No command reads what an empty slot holds -/

theorem deliverFromSlot_withSlot (f : Word → Word) :
    deliverFromSlot f (s.withSlot sl) = (deliverFromSlot f s).withSlot sl := by
  rw [deliverFromSlot_of_empty hs, deliverFromSlot_of_empty (s := s.withSlot sl) hsl]
  rfl

theorem updateField_withSlot (f : Field) (v : Word) : updateField f v (s.withSlot sl) = (updateField f v s).withSlot sl := by
  rw [updateField_of_empty hs, updateField_of_empty (s := s.withSlot sl) hsl]
  rfl

theorem slotQuotient_withSlot (scale : Nat) : slotQuotient scale (s.withSlot sl) = (slotQuotient scale s).withSlot sl := by
  simp only [slotQuotient, State.clearErr_slot, State.withSlot_slot, hs, hsl, Bool.false_eq_true, if_false]
  rfl

/-- A command that is no CONSTRUCT does the same whatever the empty slot holds. -/
theorem exec_withSlot {i : Instr} (hi : ∀ index raw, i ≠ .construct index raw) :
    exec i (s.withSlot sl) = outcomeWithSlot (exec i s) sl := by
  cases i with
  | construct index raw => exact absurd rfl (hi index raw)
  | getfid | getdid | getvid | encode | vcorer => exact congrArg _ (deliverFromSlot_withSlot hs hsl _)
  | setfid v | setdid v | setvid v => exact congrArg _ (updateField_withSlot hs hsl _ v)
  | ratio fid did | freq fid did => exact congrArg _ (staticQuotient_withSlot s sl _ fid did)
  | ratior | freqr => exact congrArg _ (slotQuotient_withSlot hs hsl _)
  | chkplat => simp only [exec, execChkplat, apply_ite (outcomeWithSlot · sl)]; rfl
  | vcore vid => simp only [exec, execVcore, apply_ite (outcomeWithSlot · sl)]; rfl
  | addrfor index => simp only [exec, execAddrfor, apply_ite (outcomeWithSlot · sl)]; rfl
  | describe => simp only [exec, execDescribe, State.clearErr_slot, State.withSlot_slot, hs, hsl, if_true]; rfl
  | apply =>
    simp only [exec, execApply, State.clearErr_slot, State.withSlot_slot, hs, hsl, if_true, apply_ite (outcomeWithSlot · sl)]
    rfl

/-! ### Steps -/

theorem exec_sameOutcome (i : Instr) : SameOutcome (exec i s) (exec i (s.withSlot sl)) := by
  by_cases hi : ∀ index raw, i ≠ .construct index raw
  · intro t ht
    have hvalid := (exec_slot_valid ht).resolve_right fun ⟨index, raw, hc⟩ => hi index raw hc
    exact ⟨t.withSlot sl, by rw [exec_withSlot hs hsl hi, ht]; rfl, .of_empty (hvalid.trans hs) hsl⟩
  · push Not at hi
    obtain ⟨index, raw, rfl⟩ := hi
    exact execConstruct_sameOutcome s sl index raw

theorem acceptCommand_sameOutcome (c : Command) : SameOutcome (acceptCommand c s) (acceptCommand c (s.withSlot sl)) := by
  unfold acceptCommand
  cases decode c with
  | legal i => exact exec_sameOutcome hs hsl i
  | illegal => exact SameButStale.next (.inr ⟨hs, sl, hsl, rfl⟩)

theorem idleStep_sameOutcome : SameOutcome (idleStep s) (idleStep (s.withSlot sl)) := by
  simp only [idleStep, State.withSlot_host]
  cases s.host with
  | nil => exact (SameButStale.of_empty hs hsl).next
  | cons m rest =>
    cases m with
    | command c => exact acceptCommand_sameOutcome (s := { s with host := rest }) hs hsl c
    | outsideWrite | poll => exact SameButStale.next (.inr ⟨hs, sl, hsl, rfl⟩)
    | reset => exact SameButStale.next (.inl (applyReset_withSlot { s with host := rest } sl))

theorem waitStep_sameOutcome : SameOutcome (waitStep s) (waitStep (s.withSlot sl)) := by
  intro t ht
  obtain ⟨hp, ⟨hd, rfl⟩ | ⟨d, rest, hd, rfl⟩⟩ := waitStep_next ht
  · exact ⟨t.withSlot sl, by simp [waitStep, hp, hd], .of_empty hs hsl⟩
  · have hslot := (answerStep_advances (d := d) (s := { s with draws := rest }) hp).slot
    refine ⟨_, ?_, .of_empty ((congrArg Slot.valid hslot).trans hs) hsl⟩
    rw [← answerStep_withSlot]
    simp only [waitStep, State.withSlot_seq, State.withSlot_draws, hp, hd, if_false]
    rfl

theorem busyStep_sameOutcome : SameOutcome (busyStep s) (busyStep (s.withSlot sl)) := by
  simp only [busyStep, State.withSlot_host]
  cases s.host with
  | nil => exact waitStep_sameOutcome hs hsl
  | cons m rest =>
    cases m with
    | command | outsideWrite => exact waitStep_sameOutcome hs hsl
    | poll => exact waitStep_sameOutcome (s := { s with host := rest }) hs hsl
    | reset => exact SameButStale.next (.inl (applyReset_withSlot { s with host := rest } sl))

theorem step_sameOutcome : SameOutcome (step s) (step (s.withSlot sl)) := by
  simp only [step, stepBody, State.withSlot_cfg, State.withSlot_busy]
  by_cases hc : s.cfg.wf = true
  · by_cases hb : s.busy = true
    · simp only [hc, hb, if_true]
      exact busyStep_sameOutcome hs hsl
    · simp only [hc, hb, if_true]
      exact idleStep_sameOutcome hs hsl
  · simp only [hc]
    exact fun _ ht => nomatch ht

end

/-! ### Runs -/

theorem step_sameButStale {s u t : State} (h : SameButStale s u) (ht : step s = .next t) :
    ∃ v, step u = .next v ∧ SameButStale t v := by
  obtain rfl | ⟨hs, sl, hsl, rfl⟩ := h
  · exact ⟨t, ht, .inl rfl⟩
  · exact step_sameOutcome hs hsl t ht

theorem run_sameButStale {n : Nat} {s u t : State} (h : SameButStale s u) (ht : runsTo n s t) :
    ∃ v, runsTo n u v ∧ SameButStale t v := by
  induction n generalizing s u with
  | zero => cases ht; exact ⟨u, rfl, h⟩
  | succ n ih =>
    obtain ⟨s', hstep, hrun⟩ := run_succ_next ht
    obtain ⟨u', hstep', h'⟩ := step_sameButStale h hstep
    obtain ⟨v, hrun', hv⟩ := ih h' hrun
    exact ⟨v, (run_succ_of_next hstep' n).trans hrun', hv⟩

/-- Settles O56: `SameButStale` holds at the start by hypothesis and is kept along the run. -/
theorem staleSlotIsUnobservable : Obligations.StaleSlotIsUnobservable := by
  unfold Obligations.StaleSlotIsUnobservable
  intro n s t index raw hs ht
  have hstart : SameButStale s { s with slot := ⟨false, index, raw⟩ } := .inr ⟨hs, ⟨false, index, raw⟩, rfl, rfl⟩
  obtain ⟨u, hu, hend⟩ := run_sameButStale hstart ht
  exact ⟨u, hu, hend.agree⟩

end Sys2Proof.Machine
end

section
/-! PROOFS. The derived quantities (spec/41_derived.md R172 to R180): the static commands and those of the slot in each of their
exclusive cases, and the laws that tie them together. RATIO and FREQ share one specification, RATIOR and FREQR another; a
command of the slot is the static one on the slot's own fields. -/

namespace Sys2Proof.Machine

/-! ### The values -/

theorem fieldValue_le (f : Field) (raw : Word) : fieldValue f raw ≤ 0xFF := by
  have hmod : fieldValue f raw < 2 ^ fieldWidth f := Nat.mod_lt _ (Nat.two_pow_pos _)
  have hwidth : 2 ^ fieldWidth f ≤ 0xFF + 1 := by cases f <;> decide
  omega

theorem getField_toNat (f : Field) (raw : Word) : (getField f raw).toNat = fieldValue f raw := by
  have hle := fieldValue_le f raw
  rw [getField_eq_fieldValue, BitVec.toNat_ofNat]
  omega

/-- A field of the slot is always a legal operand of the static commands. -/
theorem getField_toNat_le (f : Field) (raw : Word) : (getField f raw).toNat ≤ 0xFF :=
  (getField_toNat f raw).trans_le (fieldValue_le f raw)

theorem eq_zero_iff_toNat {v : Word} : v = 0#64 ↔ v.toNat = 0 := BitVec.toNat_eq

theorem getField_eq_zero_iff (f : Field) (raw : Word) : getField f raw = 0#64 ↔ fieldValue f raw = 0 := by
  rw [eq_zero_iff_toNat, getField_toNat]

theorem scaledFid_toNat {scale : Nat} {fid : Word} (hscale : scale ≤ 200) (hfid : fid.toNat ≤ 0xFF) :
    (scaledFid scale fid).toNat = scale * fid.toNat := by
  have hprod : scale * fid.toNat ≤ 200 * 0xFF := Nat.mul_le_mul hscale hfid
  rw [scaledFid, BitVec.toNat_ofNat]
  omega

theorem scaledFid_getField (scale : Nat) (raw : Word) :
    scaledFid scale (getField .fid raw) = BitVec.ofNat 64 (scale * (raw.toNat % 2 ^ 8)) := by
  rw [scaledFid, getField_toNat, fieldValue_fid]

/-- R170: in the domain of a VID the two's complement word holds the exact number of microvolts, negative ones included. -/
theorem microvolts_toInt {vid : Word} (h : vid.toNat ≤ 0xFF) :
    (microvolts vid).toInt = 1550000 - 6250 * (vid.toNat : Int) := by
  rw [microvolts, BitVec.toInt_ofInt]
  exact Int.bmod_eq_of_le (by omega) (by omega)

theorem microvolts_getField_toInt (f : Field) (raw : Word) :
    (microvolts (getField f raw)).toInt = 1550000 - 6250 * (fieldValue f raw : Int) := by
  rw [microvolts_toInt (getField_toNat_le f raw), getField_toNat]

theorem operandInDomain_of_le {v : Word} (h : v.toNat ≤ 0xFF) : operandInDomain v = true := decide_eq_true h

theorem operandInDomain_of_gt {v : Word} (h : 0xFF < v.toNat) : operandInDomain v = false :=
  decide_eq_false (Nat.not_le.mpr h)

/-! ### The outcomes -/

/-- What a static command reports of an operand above 0xFF (R171 check 2). -/
def domainInfo (f : Field) (v : Word) : ErrInfo := { ErrInfo.zero with field := fieldCode f, value := v, limit := 0xFF#64 }

/-- What a quotient with the divisor 0 reports (R171 check 3). -/
def divisorInfo : ErrInfo := { ErrInfo.zero with field := fieldCode .did }

/-- `s` after a command that delivered one result (R174, R177). -/
def State.withResult (s : State) (value : Word) : State :=
  { endedWith s 0x00#8 ErrInfo.zero with res := { s.res with res0 := value } }

/-- `s` after a command that delivered a numerator and a denominator (R172, R173, R175, R176). -/
def State.withQuotient (s : State) (num den : Word) : State :=
  { endedWith s 0x00#8 ErrInfo.zero with res := { s.res with res0 := num, res1 := den } }

section
variable {scale : Nat} {fid did : Word} {s : State}

theorem deliverQuotient_of_zero (h : did = 0#64) :
    deliverQuotient scale fid did s.clearErr = endedWith s 0x12#8 divisorInfo :=
  if_pos h

theorem deliverQuotient_of_ne_zero (h : did ≠ 0#64) :
    deliverQuotient scale fid did s.clearErr = s.withQuotient (scaledFid scale fid) did :=
  if_neg h

/-! ### RATIO and FREQ -/

theorem staticQuotient_of_fid_above (h : 0xFF < fid.toNat) :
    staticQuotient scale fid did s = endedWith s 0x13#8 (domainInfo .fid fid) :=
  if_pos (operandInDomain_of_gt h)

theorem staticQuotient_of_did_above (hfid : fid.toNat ≤ 0xFF) (h : 0xFF < did.toNat) :
    staticQuotient scale fid did s = endedWith s 0x13#8 (domainInfo .did did) :=
  (if_neg (ne_false_of_eq_true (operandInDomain_of_le hfid))).trans (if_pos (operandInDomain_of_gt h))

theorem staticQuotient_of_le (hfid : fid.toNat ≤ 0xFF) (hdid : did.toNat ≤ 0xFF) :
    staticQuotient scale fid did s = deliverQuotient scale fid did s.clearErr :=
  (if_neg (ne_false_of_eq_true (operandInDomain_of_le hfid))).trans
    (if_neg (ne_false_of_eq_true (operandInDomain_of_le hdid)))

theorem staticQuotient_of_divisor_zero (hfid : fid.toNat ≤ 0xFF) (h : did.toNat = 0) :
    staticQuotient scale fid did s = endedWith s 0x12#8 divisorInfo :=
  (staticQuotient_of_le hfid (by omega)).trans (deliverQuotient_of_zero (eq_zero_iff_toNat.mpr h))

theorem staticQuotient_of_divisor_pos (hfid : fid.toNat ≤ 0xFF) (h : 1 ≤ did.toNat) (hdid : did.toNat ≤ 0xFF) :
    staticQuotient scale fid did s = s.withQuotient (scaledFid scale fid) did :=
  (staticQuotient_of_le hfid hdid).trans
    (deliverQuotient_of_ne_zero fun h0 => absurd (eq_zero_iff_toNat.mp h0) (Nat.one_le_iff_ne_zero.mp h))

end

/-- A static quotient command in its four cases, in the order of R171's checks. -/
theorem exec_staticQuotient {i : Instr} {scale : Nat} {fid did : Word} {s : State}
    (hexec : exec i s = .next (staticQuotient scale fid did s)) :
    (0xFF < fid.toNat → exec i s = .next (endedWith s 0x13#8 (domainInfo .fid fid))) ∧
    (fid.toNat ≤ 0xFF → 0xFF < did.toNat → exec i s = .next (endedWith s 0x13#8 (domainInfo .did did))) ∧
    (fid.toNat ≤ 0xFF → did.toNat = 0 → exec i s = .next (endedWith s 0x12#8 divisorInfo)) ∧
    (fid.toNat ≤ 0xFF → 1 ≤ did.toNat → did.toNat ≤ 0xFF →
      exec i s = .next (s.withQuotient (scaledFid scale fid) did)) := by
  rw [hexec]
  exact ⟨fun h => congrArg _ (staticQuotient_of_fid_above h), fun hfid h => congrArg _ (staticQuotient_of_did_above hfid h),
    fun hfid h => congrArg _ (staticQuotient_of_divisor_zero hfid h),
    fun hfid h hdid => congrArg _ (staticQuotient_of_divisor_pos hfid h hdid)⟩

/-- Settles O25: `exec_staticQuotient` at scale 2. -/
theorem ratioDeliversTheExactQuotient : Obligations.RatioDeliversTheExactQuotient := by
  unfold Obligations.RatioDeliversTheExactQuotient
  intro s fid did
  exact ⟨rfl, exec_staticQuotient rfl⟩

/-- Settles O26: `exec_staticQuotient` at scale 200. -/
theorem freqDeliversTheExactQuotient : Obligations.FreqDeliversTheExactQuotient := by
  unfold Obligations.FreqDeliversTheExactQuotient
  intro s fid did
  exact ⟨rfl, exec_staticQuotient rfl⟩

/-! ### RATIOR and FREQR -/

section
variable {s : State} (scale : Nat)

theorem slotQuotient_of_empty (h : s.slot.valid = false) : slotQuotient scale s = endedWith s 0x11#8 ErrInfo.zero :=
  if_neg (ne_true_of_eq_false h)

theorem slotQuotient_of_held (h : s.slot.valid = true) :
    slotQuotient scale s = deliverQuotient scale (getField .fid s.slot.raw) (getField .did s.slot.raw) s.clearErr :=
  if_pos h

/-- R179: the slot's quotient is the static one on the slot's fields, for DID 0 too: fields pass the domain checks. -/
theorem slotQuotient_eq_staticQuotient (h : s.slot.valid = true) :
    slotQuotient scale s = staticQuotient scale (getField .fid s.slot.raw) (getField .did s.slot.raw) s :=
  (slotQuotient_of_held scale h).trans (staticQuotient_of_le (getField_toNat_le .fid _) (getField_toNat_le .did _)).symm

end

/-- A quotient command of the slot in its three cases. -/
theorem exec_slotQuotient {i : Instr} {scale : Nat} {s : State} (hexec : exec i s = .next (slotQuotient scale s)) :
    (s.slot.valid = false → exec i s = .next (endedWith s 0x11#8 ErrInfo.zero)) ∧
    (s.slot.valid = true → fieldValue .did s.slot.raw = 0 → exec i s = .next (endedWith s 0x12#8 divisorInfo)) ∧
    (s.slot.valid = true → fieldValue .did s.slot.raw ≠ 0 →
      exec i s = .next (s.withQuotient (BitVec.ofNat 64 (scale * (s.slot.raw.toNat % 2 ^ 8)))
        (BitVec.ofNat 64 (fieldValue .did s.slot.raw)))) := by
  rw [hexec]
  refine ⟨fun h => congrArg _ (slotQuotient_of_empty scale h), fun h h0 => ?_, fun h h0 => ?_⟩
  · rw [slotQuotient_of_held scale h, deliverQuotient_of_zero ((getField_eq_zero_iff .did _).mpr h0)]
  · rw [slotQuotient_of_held scale h, deliverQuotient_of_ne_zero (mt (getField_eq_zero_iff .did _).mp h0),
      scaledFid_getField, getField_eq_fieldValue]

/-- Settles O28: `exec_slotQuotient` at scale 2. -/
theorem ratiorDeliversTheSlotsQuotient : Obligations.RatiorDeliversTheSlotsQuotient := by
  unfold Obligations.RatiorDeliversTheSlotsQuotient
  intro s
  exact ⟨rfl, exec_slotQuotient rfl⟩

/-- Settles O29: `exec_slotQuotient` at scale 200. -/
theorem freqrDeliversTheSlotsQuotient : Obligations.FreqrDeliversTheSlotsQuotient := by
  unfold Obligations.FreqrDeliversTheSlotsQuotient
  intro s
  exact ⟨rfl, exec_slotQuotient rfl⟩

/-! ### VCORE and VCORER -/

theorem exec_vcore_of_above {vid : Word} (h : 0xFF < vid.toNat) (s : State) :
    exec (.vcore vid) s = .next (endedWith s 0x13#8 (domainInfo .vid vid)) :=
  if_pos (operandInDomain_of_gt h)

theorem exec_vcore_of_le {vid : Word} (h : vid.toNat ≤ 0xFF) (s : State) :
    exec (.vcore vid) s = .next (s.withResult (microvolts vid)) :=
  if_neg (ne_false_of_eq_true (operandInDomain_of_le h))

theorem exec_vcorer_of_empty {s : State} (h : s.slot.valid = false) :
    exec .vcorer s = .next (endedWith s 0x11#8 ErrInfo.zero) :=
  congrArg _ (deliverFromSlot_of_empty h _)

theorem exec_vcorer_of_held {s : State} (h : s.slot.valid = true) :
    exec .vcorer s = .next (s.withResult (microvolts (getField .vid s.slot.raw))) :=
  congrArg _ (deliverFromSlot_of_held h _)

/-- Settles O27: the delivered word is `microvolts vid`, whose signed value is `microvolts_toInt`. -/
theorem vcoreDeliversSignedMicrovolts : Obligations.VcoreDeliversSignedMicrovolts := by
  unfold Obligations.VcoreDeliversSignedMicrovolts
  intro s vid
  exact ⟨rfl, fun h => exec_vcore_of_above h s, fun h => ⟨microvolts vid, microvolts_toInt h, exec_vcore_of_le h s⟩⟩

/-- Settles O30: as VCORE, of the slot's VID. -/
theorem vcorerDeliversTheSlotsMicrovolts : Obligations.VcorerDeliversTheSlotsMicrovolts := by
  unfold Obligations.VcorerDeliversTheSlotsMicrovolts
  intro s
  exact ⟨rfl, exec_vcorer_of_empty, fun h => ⟨_, microvolts_getField_toInt .vid s.slot.raw, exec_vcorer_of_held h⟩⟩

/-! ### DESCRIBE -/

theorem exec_describe_of_empty {s : State} (h : s.slot.valid = false) :
    exec .describe s = .next (endedWith s 0x11#8 ErrInfo.zero) :=
  if_pos h

theorem exec_describe_of_divisor_zero {s : State} (h : s.slot.valid = true) (h0 : getField .did s.slot.raw = 0#64) :
    exec .describe s = .next (endedWith s 0x12#8 divisorInfo) :=
  (if_neg (ne_false_of_eq_true h)).trans (if_pos h0)

theorem exec_describe_of_divisor_ne_zero {s : State} (h : s.slot.valid = true) (h0 : getField .did s.slot.raw ≠ 0#64) :
    exec .describe s = .next { endedWith s 0x00#8 ErrInfo.zero with res := snapshot s.slot.raw } :=
  (if_neg (ne_false_of_eq_true h)).trans (if_neg h0)

/-- The snapshot with its five unsigned values as numbers. -/
theorem snapshot_eq (raw : Word) :
    snapshot raw = ⟨BitVec.ofNat 64 (raw.toNat % 2 ^ 8), BitVec.ofNat 64 (fieldValue .did raw),
      BitVec.ofNat 64 (fieldValue .vid raw), BitVec.ofNat 64 (2 * (raw.toNat % 2 ^ 8)),
      BitVec.ofNat 64 (200 * (raw.toNat % 2 ^ 8)), microvolts (getField .vid raw)⟩ := by
  rw [snapshot, scaledFid_getField, scaledFid_getField, getField_eq_fieldValue .fid, getField_eq_fieldValue .did,
    fieldValue_fid, ← getField_eq_fieldValue .vid]

/-- Settles O31: one lemma per case of R180, with the snapshot read by `snapshot_eq`. -/
theorem describeDeliversTheSnapshot : Obligations.DescribeDeliversTheSnapshot := by
  unfold Obligations.DescribeDeliversTheSnapshot
  intro s
  refine ⟨rfl, exec_describe_of_empty, fun h h0 => ?_, fun h h0 => ?_⟩
  · exact exec_describe_of_divisor_zero h ((getField_eq_zero_iff .did _).mpr h0)
  · have hexec := exec_describe_of_divisor_ne_zero h (mt (getField_eq_zero_iff .did _).mp h0)
    rw [snapshot_eq] at hexec
    exact ⟨_, microvolts_getField_toInt .vid s.slot.raw, hexec⟩

/-! ### The laws between the commands (R179) -/

theorem freq_eq_hundred_ratio {s t u : State} {fid did : Word} (hfid : fid.toNat ≤ 0xFF) (hpos : 1 ≤ did.toNat)
    (hdid : did.toNat ≤ 0xFF) (ht : exec (.ratio fid did) s = .next t) (hu : exec (.freq fid did) s = .next u) :
    u.res.res0.toNat = 100 * t.res.res0.toNat ∧ u.res.res1 = t.res.res1 := by
  obtain rfl : s.withQuotient (scaledFid 2 fid) did = t :=
    (staticQuotient_of_divisor_pos hfid hpos hdid).symm.trans (Host.Outcome.next.inj ht)
  obtain rfl : s.withQuotient (scaledFid 200 fid) did = u :=
    (staticQuotient_of_divisor_pos hfid hpos hdid).symm.trans (Host.Outcome.next.inj hu)
  refine ⟨?_, rfl⟩
  calc (scaledFid 200 fid).toNat = 200 * fid.toNat := scaledFid_toNat (by decide) hfid
    _ = 100 * (2 * fid.toNat) := by omega
    _ = 100 * (scaledFid 2 fid).toNat := by rw [scaledFid_toNat (by decide) hfid]

/-- What a getter leaves in RES0 when a slot is held (R122 to R124). -/
theorem res0_of_getter {i : Instr} {s t : State} {f : Field} (h : s.slot.valid = true)
    (hexec : exec i s = .next (deliverFromSlot (getField f) s)) (ht : exec i s = .next t) :
    t.res.res0 = getField f s.slot.raw := by
  obtain rfl := Host.Outcome.next.inj (hexec.symm.trans ht)
  rw [deliverFromSlot_of_held h]

theorem slotCommands_eq_static_on_getters {s f d v : State} (h : s.slot.valid = true) (hf : exec .getfid s = .next f)
    (hd : exec .getdid s = .next d) (hv : exec .getvid s = .next v) :
    exec .ratior s = exec (.ratio f.res.res0 d.res.res0) s ∧
    exec .freqr s = exec (.freq f.res.res0 d.res.res0) s ∧
    exec .vcorer s = exec (.vcore v.res.res0) s := by
  rw [res0_of_getter (f := .fid) h rfl hf, res0_of_getter (f := .did) h rfl hd, res0_of_getter (f := .vid) h rfl hv]
  exact ⟨congrArg _ (slotQuotient_eq_staticQuotient 2 h), congrArg _ (slotQuotient_eq_staticQuotient 200 h),
    (exec_vcorer_of_held h).trans (exec_vcore_of_le (getField_toNat_le .vid _) s).symm⟩

theorem vcore_succ_falls {s t u : State} {vid : Word} (h : vid.toNat < 0xFF) (ht : exec (.vcore vid) s = .next t)
    (hu : exec (.vcore (vid + 1#64)) s = .next u) : u.res.res0.toInt = t.res.res0.toInt - 6250 := by
  have hsucc : (vid + 1#64).toNat = vid.toNat + 1 := by
    rw [BitVec.toNat_add, BitVec.toNat_ofNat]
    omega
  have hle : (vid + 1#64).toNat ≤ 0xFF := by omega
  obtain rfl := Host.Outcome.next.inj ((exec_vcore_of_le (Nat.le_of_lt h) s).symm.trans ht)
  obtain rfl := Host.Outcome.next.inj ((exec_vcore_of_le hle s).symm.trans hu)
  calc (microvolts (vid + 1#64)).toInt = 1550000 - 6250 * ((vid.toNat + 1 : Nat) : Int) := by
        rw [microvolts_toInt hle, hsucc]
    _ = 1550000 - 6250 * (vid.toNat : Int) - 6250 := by omega
    _ = (microvolts vid).toInt - 6250 := by rw [microvolts_toInt (Nat.le_of_lt h)]

/-- Settles O32: the three laws above. -/
theorem derivedCommandsObeyTheirLaws : Obligations.DerivedCommandsObeyTheirLaws := by
  unfold Obligations.DerivedCommandsObeyTheirLaws
  exact ⟨fun _ _ _ _ _ => freq_eq_hundred_ratio, fun _ _ _ _ => slotCommands_eq_static_on_getters,
    fun _ _ _ _ => vcore_succ_falls⟩

end Sys2Proof.Machine
end

section
/-! PROOFS. The selector (spec/42_selector.md R200, R201): the whole next state of ADDRFOR in its two exclusive cases. -/

namespace Sys2Proof.Machine

/-- R200 at the width of RES0: neither the 32-bit address nor its extension wraps for an index up to 7. -/
theorem pstateAddr_setWidth {i : Nat} (h : i ≤ 7) : (pstateAddr i).setWidth 64 = BitVec.ofNat 64 (0xC0010064 + i) := by
  rw [← BitVec.ofNat_toNat, pstateAddr_toNat h]

theorem exec_addrfor_of_index_above {index : Word} (h : 7 < index.toNat) (s : State) :
    exec (.addrfor index) s = .next (endedWith s 0x03#8 { ErrInfo.zero with value := index, limit := 7#64 }) :=
  if_pos (decide_eq_false (Nat.not_le.mpr h))

theorem exec_addrfor_of_index_le {index : Word} (h : index.toNat ≤ 7) (s : State) :
    exec (.addrfor index) s = .next (s.withResult ((pstateAddr index.toNat).setWidth 64)) :=
  if_neg (ne_false_of_eq_true (indexInRange_eq_true h))

/-- Settles O33: one lemma per case of R201, with the delivered address read by `pstateAddr_setWidth`. -/
theorem addrforMapsTheIndex : Obligations.AddrforMapsTheIndex := by
  unfold Obligations.AddrforMapsTheIndex
  intro s index
  refine ⟨rfl, fun h => exec_addrfor_of_index_above h s, fun h => ?_⟩
  rw [← pstateAddr_setWidth h]
  exact exec_addrfor_of_index_le h s

end Sys2Proof.Machine
end

section
/-! PROOFS. The waiting steps of APPLY one by one (spec/43_apply.md R232 to R241): what each leaves after each answer, for every
draw and in both readings of the collaborator. -/

namespace Sys2Proof.Machine

/-! ### The collaborator's answers by draw -/

theorem valueAnswer_of_error {d : Draw} {c : IoCode} (h : d.error = some c) (e : Env) (held : Word) :
    valueAnswer e d held = .err c := by
  simp only [valueAnswer, h]

/-- What an `Ok` carries is named by `carried` in both readings. -/
theorem valueAnswer_of_no_error {d : Draw} (h : d.error = none) (s : State) (held : Word) :
    valueAnswer s.env d held = .ok (carried s d held) := by
  simp only [valueAnswer, h, carried]
  cases s.env.reading <;> rfl

theorem writeAnswer_eq_err_iff {d : Draw} {c : IoCode} : writeAnswer d = .err c ↔ d.error = some c := by
  cases h : d.error <;> simp [writeAnswer, h]

theorem writeAnswer_eq_ok_iff {d : Draw} : writeAnswer d = .ok () ↔ d.error = none := by
  cases h : d.error <;> simp [writeAnswer, h]

/-- What a WRITE to processor `k` leaves of the environment is named by `cellsAfter` in both readings. -/
theorem envAfterWrite_eq_cellsAfter (s : State) (d : Draw) (a : MsrAddr) (k v : Word) :
    envAfterWrite s.env d a (coreMask k) v = { s.env with msr := cellsAfter s d k.toNat a v } := by
  simp only [envAfterWrite, cellsAfter, maskCore_coreMask]
  cases s.env with
  | mk reading supported nHw cells =>
    cases reading with
    | free => rfl
    | reference => cases d.error <;> cases d.performed <;> simp

/-- A WRITE at the port that was answered `answer` and left the environment `e`. -/
def State.written (s : State) (e : Env) (a : MsrAddr) (v : Word) (answer : Answer Unit) : State :=
  ({ s with env := e }).record (.write s.seq.k.toNat a v answer)

theorem portWrite_eq_written {s : State} {d : Draw} {a : MsrAddr} {v : Word} {e : Env} {answer : Answer Unit}
    (he : envAfter d s a v = e) (h : writeAnswer d = answer) : portWrite d a v s = s.written e a v answer := by
  subst he h
  rw [portWrite, maskCore_coreMask]
  rfl

/-! ### The step of each phase, by the answer -/

section
variable {s : State} {d : Draw} {c : IoCode}

theorem topoStep_of_error (h : topoAnswer s.env d = .err c) :
    topoStep d s = (s.record (.topo (.err c))).raise .threadCountUnknown
      { ErrInfo.zero with ioop := ioopTopology, iocode := c } := by
  simp only [topoStep, h]

theorem topoStep_of_zero (h : topoAnswer s.env d = .ok 0#64) :
    topoStep d s = (s.record (.topo (.ok 0#64))).raise .threadCountUnknown ErrInfo.zero := by
  simp only [topoStep, h, if_true]

variable {n : Word}

theorem topoStep_of_above (h : topoAnswer s.env d = .ok n) (h0 : n ≠ 0#64) (hn : s.cfg.maskWidth < n.toNat) :
    topoStep d s = (s.record (.topo (.ok n))).raise .tooManyThreads
      { ErrInfo.zero with value := n, limit := BitVec.ofNat 64 s.cfg.maskWidth } := by
  simp only [topoStep, h, h0, State.record_cfg, hn, if_true, if_false]

theorem topoStep_of_count (h : topoAnswer s.env d = .ok n) (h0 : n ≠ 0#64) (hn : n.toNat ≤ s.cfg.maskWidth) :
    topoStep d s = (s.record (.topo (.ok n))).setSeq { s.seq with n := n, k := 0#64, phase := firstPass s.seq.tsc } := by
  simp only [topoStep, h, h0, State.record_cfg, State.record_seq, Nat.not_lt.mpr hn, if_false]

theorem tscReadStep_of_error (h : readAnswer s.env d s.cfg.hwcrAddr (coreMask s.seq.k) = .err c) :
    tscReadStep d s = raiseIo s.cfg.hwcrAddr ioopRead 0#64 c (s.record (.read s.seq.k.toNat s.cfg.hwcrAddr (.err c))) := by
  simp only [tscReadStep, h, maskCore_coreMask]

theorem tscReadStep_of_ok {v : Word} (h : readAnswer s.env d s.cfg.hwcrAddr (coreMask s.seq.k) = .ok v) :
    tscReadStep d s = (s.record (.read s.seq.k.toNat s.cfg.hwcrAddr (.ok v))).setSeq
      { s.seq with hw := withTscLock v, phase := .tscWrWait } := by
  simp only [tscReadStep, h, maskCore_coreMask, State.record_seq]

variable {e : Env}

section
variable (he : envAfter d s s.cfg.hwcrAddr s.seq.hw = e)
include he

theorem tscWriteStep_of_error (h : writeAnswer d = .err c) :
    tscWriteStep d s = raiseIo s.cfg.hwcrAddr ioopWrite s.seq.hw c (s.written e s.cfg.hwcrAddr s.seq.hw (.err c)) := by
  simp only [tscWriteStep, h, portWrite_eq_written he h]

theorem tscWriteStep_of_next (h : writeAnswer d = .ok ()) (hk : s.seq.k.toNat + 1 < s.seq.n.toNat) :
    tscWriteStep d s = (s.written e s.cfg.hwcrAddr s.seq.hw (.ok ())).setSeq
      { s.seq with k := s.seq.k + 1#64, phase := .tscRdWait } := by
  simp only [tscWriteStep, h, portWrite_eq_written he h, moreCores, hk, decide_true, if_true]

theorem tscWriteStep_of_last (h : writeAnswer d = .ok ()) (hk : s.seq.n.toNat ≤ s.seq.k.toNat + 1) :
    tscWriteStep d s = (s.written e s.cfg.hwcrAddr s.seq.hw (.ok ())).setSeq
      { s.seq with k := 0#64, phase := .bcWrWait } := by
  simp only [tscWriteStep, h, portWrite_eq_written he h, moreCores, Nat.not_lt.mpr hk, decide_false, Bool.false_eq_true,
    if_false]

end

section
variable (he : envAfter d s s.seq.addr s.seq.value = e)
include he

theorem broadcastStep_of_error (h : writeAnswer d = .err c) :
    broadcastStep d s = raiseIo s.seq.addr ioopWrite s.seq.value c (s.written e s.seq.addr s.seq.value (.err c)) := by
  simp only [broadcastStep, h, portWrite_eq_written he h]

theorem broadcastStep_of_next (h : writeAnswer d = .ok ()) (hk : s.seq.k.toNat + 1 < s.seq.n.toNat) :
    broadcastStep d s = (s.written e s.seq.addr s.seq.value (.ok ())).setSeq { s.seq with k := s.seq.k + 1#64 } := by
  simp only [broadcastStep, h, portWrite_eq_written he h, moreCores, hk, decide_true, if_true]

theorem broadcastStep_of_last (h : writeAnswer d = .ok ()) (hk : s.seq.n.toNat ≤ s.seq.k.toNat + 1) :
    broadcastStep d s = (s.written e s.seq.addr s.seq.value (.ok ())).complete := by
  simp only [broadcastStep, h, portWrite_eq_written he h, moreCores, Nat.not_lt.mpr hk, decide_false, Bool.false_eq_true,
    if_false]

end

end

/-! ### The step of the machine in each phase -/

section
variable {s : State} {d : Draw} {rest : List Draw}

/-- Where the host holds commands only, a block that waits in phase `p` takes that phase's step `f`. -/
theorem step_of_waiting_phase {p : Phase} {f : Draw → State → State} (h : waiting s p d rest) (hp : p ≠ .idle)
    (hf : ∀ u : State, u.seq.phase = p → answerStep d u = f d u) : step s = .next (f d { s with draws := rest }) := by
  rw [step_of_waiting h hp]
  obtain ⟨_, _, hphase, _⟩ := h
  exact congrArg _ (hf _ hphase)

theorem step_of_platWait (h : waiting s .platWait d rest) : step s = .next (platStep d { s with draws := rest }) :=
  step_of_waiting_phase h (by decide) fun u hu => by simp only [answerStep, hu]

theorem step_of_topoWait (h : waiting s .topoWait d rest) : step s = .next (topoStep d { s with draws := rest }) :=
  step_of_waiting_phase h (by decide) fun u hu => by simp only [answerStep, hu]

theorem step_of_tscRdWait (h : waiting s .tscRdWait d rest) : step s = .next (tscReadStep d { s with draws := rest }) :=
  step_of_waiting_phase h (by decide) fun u hu => by simp only [answerStep, hu]

theorem step_of_tscWrWait (h : waiting s .tscWrWait d rest) : step s = .next (tscWriteStep d { s with draws := rest }) :=
  step_of_waiting_phase h (by decide) fun u hu => by simp only [answerStep, hu]

theorem step_of_bcWrWait (h : waiting s .bcWrWait d rest) : step s = .next (broadcastStep d { s with draws := rest }) :=
  step_of_waiting_phase h (by decide) fun u hu => by simp only [answerStep, hu]

end

/-! ### TOPO -/

theorem firstPass_eq_ite (tsc : Bool) : firstPass tsc = if tsc = true then .tscRdWait else .bcWrWait := by
  cases tsc <;> rfl

/-- Settles O36: `topoStep` by the answer, which both readings make of the draw as `carried` says. -/
theorem topologyAnswerSetsTheCount : Obligations.TopologyAnswerSetsTheCount := by
  unfold Obligations.TopologyAnswerSetsTheCount
  intro s d rest hwait
  rw [step_of_topoWait hwait]
  refine ⟨fun c herr => congrArg _ (topoStep_of_error (valueAnswer_of_error herr s.env _)), fun n hok hn => ?_⟩
  have hanswer : topoAnswer s.env d = .ok n := hn ▸ valueAnswer_of_no_error hok s s.env.nHw
  have hne (h : 1 ≤ n.toNat) : n ≠ 0#64 := by rintro rfl; simp at h
  refine ⟨fun h0 => ?_, fun h1 habove => congrArg _ (topoStep_of_above hanswer (hne h1) habove), fun h1 hle => ?_⟩
  · obtain rfl : n = 0#64 := BitVec.eq_of_toNat_eq h0
    exact congrArg _ (topoStep_of_zero hanswer)
  · rw [← firstPass_eq_ite]
    exact congrArg _ (topoStep_of_count hanswer (hne h1) hle)

/-! ### The READ of HWCR -/

/-- R238 bit by bit: the TSC-lock bit is set, and every other bit is as read. -/
theorem withTscLock_getLsbD (v : Word) {b : Nat} (hb : b < 64) :
    (withTscLock v).getLsbD b = (v.getLsbD b || decide (b = 21)) := by
  have hmask : ∀ b < 64, (BitVec.ofNat 64 (1 <<< tscLockBit)).getLsbD b = decide (b = 21) := by decide
  rw [withTscLock, BitVec.getLsbD_or, hmask b hb]

/-- Settles O37: the word kept is `withTscLock` of the one read. -/
theorem hwcrReadSetsTheLockBit : Obligations.HwcrReadSetsTheLockBit := by
  unfold Obligations.HwcrReadSetsTheLockBit
  intro s d rest hwait
  rw [step_of_tscRdWait hwait]
  have hanswer : readAnswer s.env d s.cfg.hwcrAddr (coreMask s.seq.k) =
      valueAnswer s.env d (readMsr s.env.msr s.seq.k.toNat s.cfg.hwcrAddr) := by
    rw [readAnswer, maskCore_coreMask]
  refine ⟨fun c herr => ?_, fun v hok hv => ⟨withTscLock v, fun b hb => withTscLock_getLsbD v hb, ?_⟩⟩
  · exact congrArg _ (tscReadStep_of_error (hanswer.trans (valueAnswer_of_error herr s.env _)))
  · exact congrArg _ (tscReadStep_of_ok (hanswer.trans (hv ▸ valueAnswer_of_no_error hok s _)))

/-! ### The two WRITEs -/

/-- Settles O38: `tscWriteStep` by the answer, with the cells as `cellsAfter` gives them. -/
theorem hwcrWriteGoesOnOrFails : Obligations.HwcrWriteGoesOnOrFails := by
  unfold Obligations.HwcrWriteGoesOnOrFails
  rintro s d rest _ hwait rfl
  have hcells := envAfterWrite_eq_cellsAfter s d s.cfg.hwcrAddr s.seq.k s.seq.hw
  rw [step_of_tscWrWait hwait]
  exact ⟨fun c herr => congrArg _ (tscWriteStep_of_error hcells (writeAnswer_eq_err_iff.mpr herr)),
    fun hok hk => congrArg _ (tscWriteStep_of_next hcells (writeAnswer_eq_ok_iff.mpr hok) hk),
    fun hok hk => congrArg _ (tscWriteStep_of_last hcells (writeAnswer_eq_ok_iff.mpr hok) hk)⟩

/-- Settles O39: `broadcastStep` by the answer, with the cells as `cellsAfter` gives them. -/
theorem broadcastWriteGoesOnCompletesOrFails : Obligations.BroadcastWriteGoesOnCompletesOrFails := by
  unfold Obligations.BroadcastWriteGoesOnCompletesOrFails
  rintro s d rest _ hwait rfl
  have hcells := envAfterWrite_eq_cellsAfter s d s.seq.addr s.seq.k s.seq.value
  rw [step_of_bcWrWait hwait]
  exact ⟨fun c herr => congrArg _ (broadcastStep_of_error hcells (writeAnswer_eq_err_iff.mpr herr)),
    fun hok hk => congrArg _ (broadcastStep_of_next hcells (writeAnswer_eq_ok_iff.mpr hok) hk),
    fun hok hk => congrArg _ (broadcastStep_of_last hcells (writeAnswer_eq_ok_iff.mpr hok) hk)⟩

end Sys2Proof.Machine
end

section
/-! PROOFS. The platform guard (spec/43_apply.md R221, R222), APPLY at its acceptance (R225, R226), and what a busy block keeps
(R247). -/

namespace Sys2Proof.Machine

/-! ### CHKPLAT and APPLY at acceptance -/

section
variable {s : State}

theorem exec_chkplat_of_supported (h : s.guard = guardSupported) :
    exec .chkplat s = .next (endedWith s 0x00#8 ErrInfo.zero) :=
  if_pos h

theorem exec_chkplat_of_unsupported (h : s.guard = guardUnsupported) :
    exec .chkplat s = .next (endedWith s 0x01#8 ErrInfo.zero) :=
  (if_neg (by rw [State.clearErr_guard, h]; decide)).trans (if_pos h)

theorem exec_chkplat_of_unlatched (h1 : s.guard ≠ guardSupported) (h2 : s.guard ≠ guardUnsupported) :
    exec .chkplat s = .next (s.clearErr.await { s.seq with phase := .platWait }) :=
  (if_neg h1).trans (if_neg h2)

theorem exec_apply_of_unchecked (h : s.guard = guardUnchecked) :
    exec .apply s = .next (endedWith s 0x10#8 ErrInfo.zero) :=
  if_pos h

theorem exec_apply_of_unsupported (h : s.guard = guardUnsupported) :
    exec .apply s = .next (endedWith s 0x01#8 ErrInfo.zero) :=
  (if_neg (by rw [State.clearErr_guard, h]; decide)).trans (if_pos h)

variable (h0 : s.guard ≠ guardUnchecked) (h2 : s.guard ≠ guardUnsupported)
include h0 h2

theorem exec_apply_of_empty (hv : s.slot.valid = false) : exec .apply s = .next (endedWith s 0x11#8 ErrInfo.zero) :=
  (if_neg h0).trans ((if_neg h2).trans (if_pos hv))

theorem exec_apply_of_held (hv : s.slot.valid = true) : exec .apply s = .next (s.clearErr.await (launchSeq s.slot)) :=
  (if_neg h0).trans ((if_neg h2).trans (if_neg (ne_false_of_eq_true hv)))

end

/-- R200: the P-state addresses as numbers. -/
theorem pstateAddr_eq_ofNat (i : Nat) : pstateAddr i = BitVec.ofNat 32 (0xC0010064 + i) :=
  (BitVec.ofNat_add 0xC0010064 i).symm

/-- Settles O35: one lemma per case of R225 and R226, with the launch registers read as numbers. -/
theorem applyChecksThenLaunches : Obligations.ApplyChecksThenLaunches := by
  unfold Obligations.ApplyChecksThenLaunches
  intro s
  refine ⟨rfl, exec_apply_of_unchecked, exec_apply_of_unsupported, fun hg hv => ?_, fun hg hv => ?_⟩
  · exact exec_apply_of_empty (by rw [hg]; decide) (by rw [hg]; decide) hv
  · have hindex : decide (s.slot.index.toNat = 0) = decide (s.slot.index = 0#3) :=
      decide_eq_decide.mpr (BitVec.toNat_eq (x := s.slot.index) (y := 0#3)).symm
    rw [← pstateAddr_eq_ofNat, hindex]
    exact exec_apply_of_held (by rw [hg]; decide) (by rw [hg]; decide) hv

/-! ### The guard along a step -/

theorem Ends.guard {s t : State} (h : Ends s t) : t.guard = s.guard := by
  cases h <;> rfl

theorem Launches.guard {i : Instr} {s t : State} (h : Launches s i t) : t.guard = s.guard := by
  cases h <;> rfl

theorem exec_guard {i : Instr} {s t : State} (h : exec i s = .next t) : t.guard = s.guard := by
  obtain he | hl := exec_cases h
  · exact he.guard
  · exact hl.guard

/-- Only the guard's own request writes the guard, and its answer is latched (R23, R221). -/
theorem Advances.guard_cases {d : Draw} {s t : State} (h : Advances d s t) :
    t.guard = s.guard ∨ s.seq.phase = .platWait ∧ t.guard ≠ guardUnchecked := by
  cases h with
  | platSupported hp | platUnsupported hp => exact .inr ⟨hp, of_decide_eq_true rfl⟩
  | topoError | topoZero | topoTooMany | topoLock | topoBroadcast | readError | readOk | lockError | lockNext | lockLast |
    broadcastError | broadcastNext | broadcastLast => exact .inl rfl

/-- R221: only a reset makes a latched guard UNCHECKED. -/
theorem step_guard_latched {s t : State} (hreset : ∀ rest, s.host ≠ .reset :: rest) (h : step s = .next t)
    (hs : s.guard ≠ guardUnchecked) : t.guard ≠ guardUnchecked := by
  obtain ⟨_, hm⟩ := step_moves h
  cases hm with
  | reset rest hh => exact absurd hh (hreset rest)
  | command _ _ _ _ _ _ _ he => rwa [exec_guard he]
  | answered left d rest _ hp =>
    obtain hkept | ⟨_, hlatched⟩ := (answered_advances hp d left rest).guard_cases
    · rwa [hkept]
    · exact hlatched
  | illegal | outside | poll | idle | unanswered => exact hs

/-! ### The answer to PLAT -/

theorem platAnswer_eq_iff {e : Env} {d : Draw} {b : Bool} :
    platAnswer e d = b ↔ e.reading = .free ∧ d.supported = b ∨ e.reading = .reference ∧ e.supported = b := by
  cases h : e.reading <;> simp [platAnswer, h]

theorem platStep_of_supported {s : State} {d : Draw} (h : platAnswer s.env d = true) :
    platStep d s = ((s.record (.plat true)).setGuard guardSupported).complete := by
  simp only [platStep, h, if_true]

theorem platStep_of_unsupported {s : State} {d : Draw} (h : platAnswer s.env d = false) :
    platStep d s = ((s.record (.plat false)).setGuard guardUnsupported).raise .platformUnsupported ErrInfo.zero := by
  simp only [platStep, h, Bool.false_eq_true, if_false]

/-- Settles O34: one lemma per case of R221, and `step_guard_latched`. -/
theorem chkplatAsksOnceAndLatches : Obligations.ChkplatAsksOnceAndLatches := by
  unfold Obligations.ChkplatAsksOnceAndLatches
  refine ⟨rfl, fun s => ⟨exec_chkplat_of_supported, exec_chkplat_of_unsupported, exec_chkplat_of_unlatched⟩,
    fun s d rest b hwait hb => ?_, fun s t => step_guard_latched⟩
  have hanswer : platAnswer s.env d = b := platAnswer_eq_iff.mpr hb
  rw [step_of_platWait hwait]
  exact ⟨fun h => congrArg _ (platStep_of_supported (hanswer.trans h)),
    fun h => congrArg _ (platStep_of_unsupported (hanswer.trans h))⟩

/-! ### What a busy block keeps -/

theorem Advances.res {d : Draw} {s t : State} (h : Advances d s t) : t.res = s.res := by
  cases h <;> rfl

/-- R226, R247: the target, the value and the lock requirement are fixed at the launch. -/
theorem Advances.target {d : Draw} {s t : State} (h : Advances d s t) :
    t.seq.addr = s.seq.addr ∧ t.seq.value = s.seq.value ∧ t.seq.tsc = s.seq.tsc := by
  cases h <;> exact ⟨rfl, rfl, rfl⟩

/-- Settles O44: a busy block that is not reset stays for want of an answer or advances. -/
theorem busyStepsKeepTheSlot : Obligations.BusyStepsKeepTheSlot := by
  unfold Obligations.BusyStepsKeepTheSlot
  intro s t hbusy hreset h
  obtain ⟨_, hm⟩ := step_moves h
  cases hm with
  | reset rest hh => exact absurd hh (hreset rest)
  | command _ _ _ _ hb | illegal _ _ _ hb | outside _ _ _ _ hb | poll _ hb | idle hb =>
    exact absurd hbusy (ne_true_of_eq_false hb)
  | unanswered => exact ⟨rfl, rfl, fun _ => rfl, rfl, rfl, rfl⟩
  | answered left d rest _ hp =>
    have hadv := answered_advances hp d left rest
    exact ⟨hadv.slot, hadv.res, fun hplat => hadv.guard_cases.resolve_right fun hl => hplat hl.1, hadv.target⟩

/-! ### Commands under another guard (R222) -/

/-- An outcome with another guard in its next state. -/
def outcomeWithGuard (o : Host.Outcome State Fault Refusal) (g : BitVec 2) : Host.Outcome State Fault Refusal :=
  match o with
  | .next t => .next (t.setGuard g)
  | .fault r => .fault r
  | .refused r => .refused r

section
variable (s : State) (g : BitVec 2)

theorem deliverFromSlot_setGuard (f : Word → Word) :
    deliverFromSlot f (s.setGuard g) = (deliverFromSlot f s).setGuard g := by
  simp only [deliverFromSlot, apply_ite (State.setGuard · g)]
  rfl

theorem updateField_setGuard (f : Field) (v : Word) : updateField f v (s.setGuard g) = (updateField f v s).setGuard g := by
  simp only [updateField, apply_ite (State.setGuard · g)]
  rfl

theorem staticQuotient_setGuard (scale : Nat) (fid did : Word) :
    staticQuotient scale fid did (s.setGuard g) = (staticQuotient scale fid did s).setGuard g := by
  simp only [staticQuotient, deliverQuotient, apply_ite (State.setGuard · g)]
  rfl

theorem slotQuotient_setGuard (scale : Nat) : slotQuotient scale (s.setGuard g) = (slotQuotient scale s).setGuard g := by
  simp only [slotQuotient, deliverQuotient, apply_ite (State.setGuard · g)]
  rfl

/-- Only CHKPLAT and APPLY read the guard. -/
theorem exec_setGuard {i : Instr} (hchkplat : i ≠ .chkplat) (happly : i ≠ .apply) :
    exec i (s.setGuard g) = outcomeWithGuard (exec i s) g := by
  cases i with
  | chkplat => exact absurd rfl hchkplat
  | apply => exact absurd rfl happly
  | getfid | getdid | getvid | encode | vcorer => exact congrArg _ (deliverFromSlot_setGuard s g _)
  | setfid v | setdid v | setvid v => exact congrArg _ (updateField_setGuard s g _ v)
  | ratio fid did | freq fid did => exact congrArg _ (staticQuotient_setGuard s g _ fid did)
  | ratior | freqr => exact congrArg _ (slotQuotient_setGuard s g _)
  | construct index raw => simp only [exec, execConstruct, apply_ite (outcomeWithGuard · g)]; rfl
  | vcore vid => simp only [exec, execVcore, apply_ite (outcomeWithGuard · g)]; rfl
  | describe => simp only [exec, execDescribe, apply_ite (outcomeWithGuard · g)]; rfl
  | addrfor index => simp only [exec, execAddrfor, apply_ite (outcomeWithGuard · g)]; rfl

end

/-- Only CHKPLAT and APPLY launch. -/
theorem exec_ends {i : Instr} {s t : State} (hchkplat : i ≠ .chkplat) (happly : i ≠ .apply) (h : exec i s = .next t) :
    Ends s t := by
  obtain he | hl := exec_cases h
  · exact he
  · cases hl with
    | chkplat => exact absurd rfl hchkplat
    | apply => exact absurd rfl happly

/-- Settles O55: the frame of a command that ends at once, and `exec_setGuard`. -/
theorem guardGatesOnlyMsrAccess : Obligations.GuardGatesOnlyMsrAccess := by
  unfold Obligations.GuardGatesOnlyMsrAccess
  intro i s t g hchkplat happly h
  have hends := exec_ends hchkplat happly h
  obtain ⟨u, hu, -, -, -, -, hhistory⟩ := exec_frame i s
  cases h.symm.trans hu
  exact ⟨hends.guard, hhistory, hends.busy, (exec_setGuard s g hchkplat happly).trans (congrArg (outcomeWithGuard · g) h)⟩

end Sys2Proof.Machine
end

section
/-! PROOFS. The sequential program of spec/43_apply.md R248 by cases: its three requests, its two loops, and what follows the
answer to TOPO. -/

namespace Sys2Proof.Machine

/-! ### The requests -/

/-- What the program finds outside itself at the state `s`. -/
def State.io (s : State) : Io := ⟨s.env, s.history, s.draws⟩

section
variable {io io' : Io} {addr : MsrAddr} {k : Nat} {v : Word}

theorem draws_of_ioTopo_none (h : ioTopo io = none) : io.draws = [] := by
  unfold ioTopo at h
  split at h
  · assumption
  · cases h

theorem draws_of_ioRead_none (h : ioRead addr k io = none) : io.draws = [] := by
  unfold ioRead at h
  split at h
  · assumption
  · cases h

theorem draws_of_ioWrite_none (h : ioWrite addr k v io = none) : io.draws = [] := by
  unfold ioWrite at h
  split at h
  · assumption
  · cases h

/-- TOPO takes one draw, records its answer, and leaves the environment. -/
theorem ioTopo_some {a : Answer Word} (h : ioTopo io = some (a, io')) :
    ∃ d rest, io.draws = d :: rest ∧ topoAnswer io.env d = a ∧ io' = ⟨io.env, io.history ++ [.topo a], rest⟩ := by
  unfold ioTopo at h
  split at h
  · cases h
  · rename_i d rest hd
    cases h
    exact ⟨d, rest, hd, rfl, rfl⟩

/-- A READ takes one draw, records its answer, and leaves the environment. -/
theorem ioRead_some {a : Answer Word} (h : ioRead addr k io = some (a, io')) :
    ∃ d rest, io.draws = d :: rest ∧ readAnswer io.env d addr (2 ^ k) = a ∧
      io' = ⟨io.env, io.history ++ [.read k addr a], rest⟩ := by
  unfold ioRead at h
  split at h
  · cases h
  · rename_i d rest hd
    cases h
    exact ⟨d, rest, hd, rfl, rfl⟩

/-- A WRITE takes one draw, records its answer, and leaves the environment as the collaborator does. -/
theorem ioWrite_some {a : Answer Unit} (h : ioWrite addr k v io = some (a, io')) :
    ∃ d rest, io.draws = d :: rest ∧ writeAnswer d = a ∧
      io' = ⟨envAfterWrite io.env d addr (2 ^ k) v, io.history ++ [.write k addr v a], rest⟩ := by
  unfold ioWrite at h
  split at h
  · cases h
  · rename_i d rest hd
    cases h
    exact ⟨d, rest, hd, rfl, rfl⟩

theorem history_of_ioTopo {a : Answer Word} (h : ioTopo io = some (a, io')) : io'.history = io.history ++ [.topo a] := by
  obtain ⟨_, _, _, _, rfl⟩ := ioTopo_some h
  rfl

theorem history_of_ioRead {a : Answer Word} (h : ioRead addr k io = some (a, io')) :
    io'.history = io.history ++ [.read k addr a] := by
  obtain ⟨_, _, _, _, rfl⟩ := ioRead_some h
  rfl

theorem history_of_ioWrite {a : Answer Unit} (h : ioWrite addr k v io = some (a, io')) :
    io'.history = io.history ++ [.write k addr v a] := by
  obtain ⟨_, _, _, _, rfl⟩ := ioWrite_some h
  rfl

end

/-! ### The loops -/

/-- `ERR_*` after a failed READ of `addr` at processor `k` (R237). -/
def readFailure (k : Nat) (addr : MsrAddr) (c : IoCode) : ErrInfo :=
  { ErrInfo.zero with core := BitVec.ofNat 64 k, addr := addr, ioop := ioopRead, iocode := c }

/-- `ERR_*` after a failed WRITE of `v` at `addr` to processor `k` (R239, R241). -/
def writeFailure (k : Nat) (addr : MsrAddr) (v : Word) (c : IoCode) : ErrInfo :=
  { ErrInfo.zero with core := BitVec.ofNat 64 k, addr := addr, ioop := ioopWrite, value := v, iocode := c }

/-- The first loop from the WRITE of `h` to processor `k` on; `left` processors follow. -/
def lockWrite (hw : MsrAddr) (left k : Nat) (h : Word) (io : Io) : Option (Option ErrInfo × Io) :=
  match ioWrite hw k h io with
  | none => none
  | some (.err c, io) => some (some (writeFailure k hw h c), io)
  | some (.ok _, io) => lockLoop hw left (k + 1) io

section
variable {hw addr : MsrAddr} {left k : Nat} {v value : Word} {c : IoCode} {io io' : Io}

theorem lockLoop_of_none (h : ioRead hw k io = none) : lockLoop hw (left + 1) k io = none := by
  simp only [lockLoop, h]

theorem lockLoop_of_err (h : ioRead hw k io = some (.err c, io')) :
    lockLoop hw (left + 1) k io = some (some (readFailure k hw c), io') := by
  simp only [lockLoop, h, readFailure]

theorem lockLoop_of_ok (h : ioRead hw k io = some (.ok v, io')) :
    lockLoop hw (left + 1) k io = lockWrite hw left k (withTscLock v) io' := by
  simp only [lockLoop, h]
  rfl

theorem lockWrite_of_none (h : ioWrite hw k v io = none) : lockWrite hw left k v io = none := by
  simp only [lockWrite, h]

theorem lockWrite_of_err (h : ioWrite hw k v io = some (.err c, io')) :
    lockWrite hw left k v io = some (some (writeFailure k hw v c), io') := by
  simp only [lockWrite, h]

theorem lockWrite_of_ok (h : ioWrite hw k v io = some (.ok (), io')) :
    lockWrite hw left k v io = lockLoop hw left (k + 1) io' := by
  simp only [lockWrite, h]

theorem writeLoop_of_none (h : ioWrite addr k value io = none) : writeLoop addr value (left + 1) k io = none := by
  simp only [writeLoop, h]

theorem writeLoop_of_err (h : ioWrite addr k value io = some (.err c, io')) :
    writeLoop addr value (left + 1) k io = some (some (writeFailure k addr value c), io') := by
  simp only [writeLoop, h, writeFailure]

theorem writeLoop_of_ok (h : ioWrite addr k value io = some (.ok (), io')) :
    writeLoop addr value (left + 1) k io = writeLoop addr value left (k + 1) io' := by
  simp only [writeLoop, h]

end

/-! ### The whole program -/

/-- The program's end with status `OK`. -/
def succeed (io : Io) : Option ApplyEnd := some ⟨.ok, ErrInfo.zero, io⟩

/-- The broadcast pass over `n` processors, and the end. -/
def broadcastPass (addr : MsrAddr) (value n : Word) (io : Io) : Option ApplyEnd :=
  afterLoop (writeLoop addr value n.toNat 0 io) succeed

/-- The TSC-lock pass over `n` processors, which only index 0 requires (R246). -/
def lockPass (s : State) (n : Word) (io : Io) : Option (Option ErrInfo × Io) :=
  if s.slot.index = 0#3 then lockLoop s.cfg.hwcrAddr n.toNat 0 io else some (none, io)

/-- The two passes over `n` processors. -/
def applyPasses (s : State) (n : Word) (io : Io) : Option ApplyEnd :=
  afterLoop (lockPass s n io) (broadcastPass (pstateAddr s.slot.index.toNat) s.slot.raw n)

/-- The program from the answer to TOPO on (R232, R233, R235). -/
def afterTopo (s : State) (answer : Answer Word) (io : Io) : Option ApplyEnd :=
  match answer with
  | .err c => some ⟨.threadCountUnknown, { ErrInfo.zero with ioop := ioopTopology, iocode := c }, io⟩
  | .ok n =>
    if n.toNat = 0 then some ⟨.threadCountUnknown, ErrInfo.zero, io⟩
    else if s.cfg.maskWidth < n.toNat then
      some ⟨.tooManyThreads, { ErrInfo.zero with value := n, limit := BitVec.ofNat 64 s.cfg.maskWidth }, io⟩
    else applyPasses s n io

/-- What of the program follows its checks: the request TOPO and its answer. -/
def topoProgram (s : State) (io : Io) : Option ApplyEnd := (ioTopo io).bind fun r => afterTopo s r.1 r.2

section
variable {s : State}

theorem applyProgram_of_unchecked (h : s.guard = guardUnchecked) :
    applyProgram s = some ⟨.platformUnchecked, ErrInfo.zero, s.io⟩ :=
  if_pos h

theorem applyProgram_of_unsupported (h : s.guard = guardUnsupported) :
    applyProgram s = some ⟨.platformUnsupported, ErrInfo.zero, s.io⟩ :=
  (if_neg (by rw [h]; decide)).trans (if_pos h)

variable (h0 : s.guard ≠ guardUnchecked) (h2 : s.guard ≠ guardUnsupported)
include h0 h2

theorem applyProgram_of_empty (hv : s.slot.valid = false) :
    applyProgram s = some ⟨.noRegister, ErrInfo.zero, s.io⟩ :=
  (if_neg h0).trans ((if_neg h2).trans (if_pos hv))

theorem applyProgram_of_held (hv : s.slot.valid = true) : applyProgram s = topoProgram s s.io := by
  refine (if_neg h0).trans ((if_neg h2).trans ((if_neg (ne_false_of_eq_true hv)).trans ?_))
  rw [topoProgram, State.io]
  cases ioTopo ⟨s.env, s.history, s.draws⟩ with
  | none => rfl
  | some r =>
    obtain ⟨a, io⟩ := r
    cases a with
    | err c => rfl
    | ok n =>
      by_cases hindex : s.slot.index = 0#3
      · simp only [Option.bind_some, afterTopo, applyPasses, lockPass, hindex, if_true]
        rfl
      · simp only [Option.bind_some, afterTopo, applyPasses, lockPass, hindex, if_false]
        rfl

end

end Sys2Proof.Machine
end

section
/-! PROOFS. APPLY is the sequential program of spec/43_apply.md R248: phase by phase the block does what is left of the program,
and where the program has no end the block waits for ever. -/

namespace Sys2Proof.Machine

/-! ### Completion of a busy block -/

/-- The block at `u` completes `waits` steps later in `t`, and is busy until then. -/
def finishesIn (waits : Nat) (u t : State) : Prop :=
  runsTo waits u t ∧ t.busy = false ∧ ∀ m < waits, ∃ w, runsTo m u w ∧ w.busy = true

theorem finishesIn_zero {t : State} (h : t.busy = false) : finishesIn 0 t t :=
  ⟨rfl, h, fun _ hm => absurd hm (Nat.not_lt_zero _)⟩

theorem finishesIn_succ {waits : Nat} {u u' t : State} (hb : u.busy = true) (hstep : step u = .next u')
    (h : finishesIn waits u' t) : finishesIn (waits + 1) u t := by
  obtain ⟨hrun, ht, hbusy⟩ := h
  refine ⟨(run_succ_of_next hstep waits).trans hrun, ht, fun m hm => ?_⟩
  cases m with
  | zero => exact ⟨u, rfl, hb⟩
  | succ m =>
    obtain ⟨w, hw, hwb⟩ := hbusy m (Nat.lt_of_succ_lt_succ hm)
    exact ⟨w, (run_succ_of_next hstep m).trans hw, hwb⟩

/-- The acceptance is the first step of a command. -/
theorem completesIn_of_step {waits : Nat} {s u t : State} (hstep : step s = .next u) (h : finishesIn waits u t) :
    completesIn waits s t := by
  obtain ⟨hrun, ht, hbusy⟩ := h
  refine ⟨(run_succ_of_next hstep waits).trans hrun, ht, fun m hm => ?_⟩
  obtain ⟨w, hw, hwb⟩ := hbusy m hm
  exact ⟨w, (run_succ_of_next hstep m).trans hw, hwb⟩

theorem runsTo_unique {n : Nat} {s t t' : State} (h : runsTo n s t) (h' : runsTo n s t') : t = t' :=
  Host.Outcome.next.inj (h.symm.trans h')

/-- The state in which a command completes is not busy. -/
theorem busy_eq_false_of_completesIn {n : Nat} {s t w : State} (h : completesIn n s t) (hw : runsTo (n + 1) s w) :
    w.busy = false := by
  obtain ⟨hrun, ht, _⟩ := h
  rwa [runsTo_unique hw hrun]

theorem completesIn_le {m n : Nat} {s t t' : State} (h : completesIn m s t) (h' : completesIn n s t') : n ≤ m := by
  by_contra hlt
  obtain ⟨_, _, hbusy⟩ := h'
  obtain ⟨w, hw, hwb⟩ := hbusy m (Nat.not_le.mp hlt)
  exact absurd hwb (ne_true_of_eq_false (busy_eq_false_of_completesIn h hw))

/-- The first completion is one. -/
theorem completesIn_unique {m n : Nat} {s t t' : State} (h : completesIn m s t) (h' : completesIn n s t') :
    m = n ∧ t = t' := by
  obtain rfl : m = n := Nat.le_antisymm (completesIn_le h' h) (completesIn_le h h')
  exact ⟨rfl, runsTo_unique h.1 h'.1⟩

/-! ### The block inside an APPLY and after it -/

/-- The block of `s` inside an APPLY, with the sequencer registers `q` and, outside it, `io`. -/
def State.during (s : State) (q : Seq) (io : Io) : State :=
  { s with
    busy := true, err := ErrInfo.zero, seq := q, env := io.env, history := io.history, draws := io.draws }

/-- The block of `s` after an APPLY that ended as `e`, its sequencer registers as left in `q`. -/
def State.finished (s : State) (q : Seq) (e : ApplyEnd) : State :=
  { s with
    status := statusCode e.status, err := e.info, busy := false, seq := { q with phase := .idle }
    env := e.io.env, history := e.io.history, draws := e.io.draws }

/-- The block at `u` does what is left of the program: it completes as the program ends, after one step for each request, or
is busy for ever where the program has no end. -/
def Performs (s u : State) (left : Option ApplyEnd) : Prop :=
  match left with
  | some e => ∃ waits q, finishesIn waits u (s.finished q e) ∧ e.io.history.length = u.history.length + waits
  | none => ∀ n, ∃ t, runsTo n u t ∧ t.busy = true

section
variable {s : State}

theorem performs_finished (s : State) (q : Seq) (e : ApplyEnd) : Performs s (s.finished q e) (some e) :=
  ⟨0, q, finishesIn_zero rfl, rfl⟩

/-- One answered request. -/
theorem Performs.step {u u' : State} {left : Option ApplyEnd} {event : Event} (h : Performs s u' left)
    (hb : u.busy = true) (hstep : step u = .next u') (hevent : u'.history = u.history ++ [event]) :
    Performs s u left := by
  cases left with
  | some e =>
    obtain ⟨waits, q, hfinish, hlength⟩ := h
    refine ⟨waits + 1, q, finishesIn_succ hb hstep hfinish, ?_⟩
    rw [hevent, List.length_append, List.length_singleton] at hlength
    omega
  | none =>
    intro n
    cases n with
    | zero => exact ⟨u, rfl, hb⟩
    | succ n =>
      obtain ⟨t, ht, htb⟩ := h n
      exact ⟨t, (run_succ_of_next hstep n).trans ht, htb⟩

theorem performs_none_of_fixed {u : State} (hb : u.busy = true) (hstep : step u = .next u) : Performs s u none := by
  intro n
  refine ⟨u, ?_, hb⟩
  induction n with
  | zero => rfl
  | succ n ih => exact (run_succ_of_next hstep n).trans ih

end

/-! ### The steps of the block, by the program's requests -/

/-- APPLY has been accepted, and the host holds commands only. -/
structure State.Accepted (s : State) : Prop where
  cfg_wf : s.cfg.wf = true
  commands : commandsOnly s.host = true

section
variable {s : State} (hs : s.Accepted) {q : Seq} {io io' : Io} {c : IoCode}
include hs

theorem waiting_during {d : Draw} {rest : List Draw} {p : Phase} (hp : q.phase = p) (hd : io.draws = d :: rest) :
    waiting (s.during q io) p d rest :=
  ⟨hs.cfg_wf, rfl, hp, hs.commands, hd⟩

/-- Where no answer comes the block waits for ever (R323). -/
theorem performs_none (hp : q.phase ≠ .idle) (hd : io.draws = []) : Performs s (s.during q io) none := by
  refine performs_none_of_fixed rfl ?_
  have hheld (m : HostMove) (rest : List HostMove) (hm : commandsOnly (m :: rest) = false) : s.host ≠ m :: rest :=
    fun hh => Bool.false_ne_true (hm.symm.trans (hh ▸ hs.commands))
  rw [step_of_busy (s := s.during q io) hs.cfg_wf rfl (fun rest => hheld .reset rest rfl) (fun rest => hheld .poll rest rfl)]
  simp only [waitStep, State.during, hp, hd, if_false]

section
variable (hp : q.phase = .topoWait)
include hp

theorem step_topo_err (h : ioTopo io = some (.err c, io')) :
    step (s.during q io) = .next (s.finished q
      ⟨.threadCountUnknown, { ErrInfo.zero with ioop := ioopTopology, iocode := c }, io'⟩) := by
  obtain ⟨d, rest, hd, ha, rfl⟩ := ioTopo_some h
  exact (step_of_topoWait (waiting_during hs hp hd)).trans (congrArg _ (topoStep_of_error ha))

theorem step_topo_zero (h : ioTopo io = some (.ok 0#64, io')) :
    step (s.during q io) = .next (s.finished q ⟨.threadCountUnknown, ErrInfo.zero, io'⟩) := by
  obtain ⟨d, rest, hd, ha, rfl⟩ := ioTopo_some h
  exact (step_of_topoWait (waiting_during hs hp hd)).trans (congrArg _ (topoStep_of_zero ha))

variable {n : Word}

theorem step_topo_above (h : ioTopo io = some (.ok n, io')) (h0 : n ≠ 0#64) (hn : s.cfg.maskWidth < n.toNat) :
    step (s.during q io) = .next (s.finished q
      ⟨.tooManyThreads, { ErrInfo.zero with value := n, limit := BitVec.ofNat 64 s.cfg.maskWidth }, io'⟩) := by
  obtain ⟨d, rest, hd, ha, rfl⟩ := ioTopo_some h
  exact (step_of_topoWait (waiting_during hs hp hd)).trans (congrArg _ (topoStep_of_above ha h0 hn))

theorem step_topo_count (h : ioTopo io = some (.ok n, io')) (h0 : n ≠ 0#64) (hn : n.toNat ≤ s.cfg.maskWidth) :
    step (s.during q io) = .next (s.during { q with n := n, k := 0#64, phase := firstPass q.tsc } io') := by
  obtain ⟨d, rest, hd, ha, rfl⟩ := ioTopo_some h
  exact (step_of_topoWait (waiting_during hs hp hd)).trans (congrArg _ (topoStep_of_count ha h0 hn))

end

section
variable (hp : q.phase = .tscRdWait)
include hp

theorem step_read_err (h : ioRead s.cfg.hwcrAddr q.k.toNat io = some (.err c, io')) :
    step (s.during q io) = .next (s.finished q
      ⟨.registerIoFailure, readFailure q.k.toNat s.cfg.hwcrAddr c, io'⟩) := by
  obtain ⟨d, rest, hd, ha, rfl⟩ := ioRead_some h
  rw [readFailure, BitVec.ofNat_toNat, BitVec.setWidth_eq]
  exact (step_of_tscRdWait (waiting_during hs hp hd)).trans (congrArg _ (tscReadStep_of_error ha))

theorem step_read_ok {v : Word} (h : ioRead s.cfg.hwcrAddr q.k.toNat io = some (.ok v, io')) :
    step (s.during q io) = .next (s.during { q with hw := withTscLock v, phase := .tscWrWait } io') := by
  obtain ⟨d, rest, hd, ha, rfl⟩ := ioRead_some h
  exact (step_of_tscRdWait (waiting_during hs hp hd)).trans (congrArg _ (tscReadStep_of_ok ha))

end

section
variable (hp : q.phase = .tscWrWait)
include hp

theorem step_lock_err (h : ioWrite s.cfg.hwcrAddr q.k.toNat q.hw io = some (.err c, io')) :
    step (s.during q io) = .next (s.finished q
      ⟨.registerIoFailure, writeFailure q.k.toNat s.cfg.hwcrAddr q.hw c, io'⟩) := by
  obtain ⟨d, rest, hd, ha, rfl⟩ := ioWrite_some h
  rw [writeFailure, BitVec.ofNat_toNat, BitVec.setWidth_eq]
  exact (step_of_tscWrWait (waiting_during hs hp hd)).trans (congrArg _ (tscWriteStep_of_error rfl ha))

theorem step_lock_next (h : ioWrite s.cfg.hwcrAddr q.k.toNat q.hw io = some (.ok (), io'))
    (hk : q.k.toNat + 1 < q.n.toNat) :
    step (s.during q io) = .next (s.during { q with k := q.k + 1#64, phase := .tscRdWait } io') := by
  obtain ⟨d, rest, hd, ha, rfl⟩ := ioWrite_some h
  exact (step_of_tscWrWait (waiting_during hs hp hd)).trans (congrArg _ (tscWriteStep_of_next rfl ha hk))

theorem step_lock_last (h : ioWrite s.cfg.hwcrAddr q.k.toNat q.hw io = some (.ok (), io'))
    (hk : q.n.toNat ≤ q.k.toNat + 1) :
    step (s.during q io) = .next (s.during { q with k := 0#64, phase := .bcWrWait } io') := by
  obtain ⟨d, rest, hd, ha, rfl⟩ := ioWrite_some h
  exact (step_of_tscWrWait (waiting_during hs hp hd)).trans (congrArg _ (tscWriteStep_of_last rfl ha hk))

end

section
variable (hp : q.phase = .bcWrWait)
include hp

theorem step_broadcast_err (h : ioWrite q.addr q.k.toNat q.value io = some (.err c, io')) :
    step (s.during q io) = .next (s.finished q
      ⟨.registerIoFailure, writeFailure q.k.toNat q.addr q.value c, io'⟩) := by
  obtain ⟨d, rest, hd, ha, rfl⟩ := ioWrite_some h
  rw [writeFailure, BitVec.ofNat_toNat, BitVec.setWidth_eq]
  exact (step_of_bcWrWait (waiting_during hs hp hd)).trans (congrArg _ (broadcastStep_of_error rfl ha))

theorem step_broadcast_next (h : ioWrite q.addr q.k.toNat q.value io = some (.ok (), io'))
    (hk : q.k.toNat + 1 < q.n.toNat) :
    step (s.during q io) = .next (s.during { q with k := q.k + 1#64 } io') := by
  obtain ⟨d, rest, hd, ha, rfl⟩ := ioWrite_some h
  exact (step_of_bcWrWait (waiting_during hs hp hd)).trans (congrArg _ (broadcastStep_of_next rfl ha hk))

theorem step_broadcast_last (h : ioWrite q.addr q.k.toNat q.value io = some (.ok (), io'))
    (hk : q.n.toNat ≤ q.k.toNat + 1) :
    step (s.during q io) = .next (s.finished q ⟨.ok, ErrInfo.zero, io'⟩) := by
  obtain ⟨d, rest, hd, ha, rfl⟩ := ioWrite_some h
  exact (step_of_bcWrWait (waiting_during hs hp hd)).trans (congrArg _ (broadcastStep_of_last rfl ha hk))

end

end

end Sys2Proof.Machine
end

section
/-! PROOFS. The simulation of spec/43_apply.md R248, from the last pass to the first check: the broadcast pass, the TSC-lock
pass, the answer to TOPO, the acceptance. -/

namespace Sys2Proof.Machine

section
variable {s : State} (hs : s.Accepted)
include hs

/-! ### The broadcast pass -/

/-- One iteration of the second loop, given what follows an `Ok`. -/
theorem performs_broadcastWrite {q : Seq} {io : Io} (hp : q.phase = .bcWrWait) (left : Nat)
    (hok : ∀ io', ioWrite q.addr q.k.toNat q.value io = some (.ok (), io') →
      Performs s (s.during q io) (afterLoop (writeLoop q.addr q.value left (q.k.toNat + 1) io') succeed)) :
    Performs s (s.during q io) (afterLoop (writeLoop q.addr q.value (left + 1) q.k.toNat io) succeed) := by
  cases hio : ioWrite q.addr q.k.toNat q.value io with
  | none =>
    rw [writeLoop_of_none hio]
    exact performs_none hs (by rw [hp]; decide) (draws_of_ioWrite_none hio)
  | some r =>
    obtain ⟨answer, io'⟩ := r
    cases answer with
    | err c =>
      rw [writeLoop_of_err hio]
      exact (performs_finished s q _).step rfl (step_broadcast_err hs hp hio) (history_of_ioWrite hio)
    | ok _ =>
      rw [writeLoop_of_ok hio]
      exact hok io' hio

theorem performs_writeLoop {left : Nat} {q : Seq} {io : Io} (hp : q.phase = .bcWrWait)
    (hn : q.n.toNat = q.k.toNat + (left + 1)) :
    Performs s (s.during q io) (afterLoop (writeLoop q.addr q.value (left + 1) q.k.toNat io) succeed) := by
  induction left generalizing q io with
  | zero =>
    refine performs_broadcastWrite hs hp 0 fun io' hio => ?_
    exact (performs_finished s q _).step rfl (step_broadcast_last hs hp hio (by omega)) (history_of_ioWrite hio)
  | succ left ih =>
    refine performs_broadcastWrite hs hp (left + 1) fun io' hio => ?_
    have hk : q.k.toNat + 1 < q.n.toNat := by omega
    have hsucc := toNat_succ_of_lt hk
    have hlater := ih (q := { q with k := q.k + 1#64 }) (io := io') hp (by simp only [hsucc]; omega)
    simp only [hsucc] at hlater
    exact hlater.step rfl (step_broadcast_next hs hp hio hk) (history_of_ioWrite hio)

theorem performs_broadcastPass {q : Seq} {io : Io} (hp : q.phase = .bcWrWait) (hk : q.k = 0#64) (hn : 0 < q.n.toNat) :
    Performs s (s.during q io) (broadcastPass q.addr q.value q.n io) := by
  obtain ⟨left, hleft⟩ := Nat.exists_eq_succ_of_ne_zero (Nat.ne_of_gt hn)
  have hloop := performs_writeLoop hs (io := io) (left := left) hp (by rw [hk, hleft]; simp)
  rwa [hk, ← Nat.succ_eq_add_one, ← hleft] at hloop

/-! ### The TSC-lock pass -/

/-- The WRITE of one iteration of the first loop, given what follows an `Ok`. -/
theorem performs_lockWrite {q : Seq} {io : Io} (hp : q.phase = .tscWrWait) (left : Nat) (next : Io → Option ApplyEnd)
    (hok : ∀ io', ioWrite s.cfg.hwcrAddr q.k.toNat q.hw io = some (.ok (), io') →
      Performs s (s.during q io) (afterLoop (lockLoop s.cfg.hwcrAddr left (q.k.toNat + 1) io') next)) :
    Performs s (s.during q io) (afterLoop (lockWrite s.cfg.hwcrAddr left q.k.toNat q.hw io) next) := by
  cases hio : ioWrite s.cfg.hwcrAddr q.k.toNat q.hw io with
  | none =>
    rw [lockWrite_of_none hio]
    exact performs_none hs (by rw [hp]; decide) (draws_of_ioWrite_none hio)
  | some r =>
    obtain ⟨answer, io'⟩ := r
    cases answer with
    | err c =>
      rw [lockWrite_of_err hio]
      exact (performs_finished s q _).step rfl (step_lock_err hs hp hio) (history_of_ioWrite hio)
    | ok _ =>
      rw [lockWrite_of_ok hio]
      exact hok io' hio

/-- The READ of one iteration of the first loop, given what follows an `Ok`. -/
theorem performs_lockRead {q : Seq} {io : Io} (hp : q.phase = .tscRdWait) (left : Nat) (next : Io → Option ApplyEnd)
    (hok : ∀ v io', ioRead s.cfg.hwcrAddr q.k.toNat io = some (.ok v, io') →
      Performs s (s.during { q with hw := withTscLock v, phase := .tscWrWait } io')
        (afterLoop (lockWrite s.cfg.hwcrAddr left q.k.toNat (withTscLock v) io') next)) :
    Performs s (s.during q io) (afterLoop (lockLoop s.cfg.hwcrAddr (left + 1) q.k.toNat io) next) := by
  cases hio : ioRead s.cfg.hwcrAddr q.k.toNat io with
  | none =>
    rw [lockLoop_of_none hio]
    exact performs_none hs (by rw [hp]; decide) (draws_of_ioRead_none hio)
  | some r =>
    obtain ⟨answer, io'⟩ := r
    cases answer with
    | err c =>
      rw [lockLoop_of_err hio]
      exact (performs_finished s q _).step rfl (step_read_err hs hp hio) (history_of_ioRead hio)
    | ok v =>
      rw [lockLoop_of_ok hio]
      exact (hok v io' hio).step rfl (step_read_ok hs hp hio) (history_of_ioRead hio)

theorem performs_lockLoop {left : Nat} {q : Seq} {io : Io} (hp : q.phase = .tscRdWait)
    (hn : q.n.toNat = q.k.toNat + (left + 1)) :
    Performs s (s.during q io)
      (afterLoop (lockLoop s.cfg.hwcrAddr (left + 1) q.k.toNat io) (broadcastPass q.addr q.value q.n)) := by
  induction left generalizing q io with
  | zero =>
    refine performs_lockRead hs hp 0 _ fun v io₁ _ => performs_lockWrite hs rfl 0 _ fun io₂ hio => ?_
    have hlater := performs_broadcastPass hs (q := { q with hw := withTscLock v, k := 0#64, phase := .bcWrWait })
      (io := io₂) rfl rfl (by simp only; omega)
    exact hlater.step rfl (step_lock_last hs rfl hio (by simp only; omega)) (history_of_ioWrite hio)
  | succ left ih =>
    refine performs_lockRead hs hp (left + 1) _ fun v io₁ _ => performs_lockWrite hs rfl (left + 1) _ fun io₂ hio => ?_
    have hk : q.k.toNat + 1 < q.n.toNat := by omega
    have hsucc := toNat_succ_of_lt hk
    have hlater := ih (q := { q with hw := withTscLock v, k := q.k + 1#64, phase := .tscRdWait }) (io := io₂) rfl
      (by simp only [hsucc]; omega)
    simp only [hsucc] at hlater
    exact hlater.step rfl (step_lock_next hs rfl hio hk) (history_of_ioWrite hio)

/-! ### TOPO -/

/-- The sequencer registers with which the passes over `n` processors begin (R235). -/
def passSeq (slot : Slot) (n : Word) : Seq :=
  { launchSeq slot with n := n, k := 0#64, phase := firstPass (launchSeq slot).tsc }

theorem performs_applyPasses {n : Word} {io : Io} (hn : 0 < n.toNat) :
    Performs s (s.during (passSeq s.slot n) io) (applyPasses s n io) := by
  rw [applyPasses, lockPass]
  by_cases hindex : s.slot.index = 0#3
  · have hphase : (passSeq s.slot n).phase = .tscRdWait := by simp only [passSeq, launchSeq, hindex]; rfl
    obtain ⟨left, hleft⟩ := Nat.exists_eq_succ_of_ne_zero (Nat.ne_of_gt hn)
    have hloop := performs_lockLoop hs (io := io) (left := left) hphase (hleft.trans (Nat.zero_add _).symm)
    rw [if_pos hindex, hleft]
    exact hloop
  · have hphase : (passSeq s.slot n).phase = .bcWrWait := by simp only [passSeq, launchSeq, hindex, decide_false]; rfl
    rw [if_neg hindex]
    exact performs_broadcastPass hs hphase rfl hn

theorem performs_topoProgram (io : Io) : Performs s (s.during (launchSeq s.slot) io) (topoProgram s io) := by
  rw [topoProgram]
  cases hio : ioTopo io with
  | none => exact performs_none hs (by simp [launchSeq]) (draws_of_ioTopo_none hio)
  | some r =>
    obtain ⟨answer, io'⟩ := r
    rw [Option.bind_some]
    cases answer with
    | err c => exact (performs_finished s (launchSeq s.slot) _).step rfl (step_topo_err hs rfl hio) (history_of_ioTopo hio)
    | ok n =>
      simp only [afterTopo]
      split
      · rename_i h0
        obtain rfl : n = 0#64 := BitVec.eq_of_toNat_eq h0
        exact (performs_finished s (launchSeq s.slot) _).step rfl (step_topo_zero hs rfl hio) (history_of_ioTopo hio)
      · rename_i h0
        have hne : n ≠ 0#64 := fun h => h0 (congrArg BitVec.toNat h)
        split
        · rename_i hn
          exact (performs_finished s (launchSeq s.slot) _).step rfl (step_topo_above hs rfl hio hne hn)
            (history_of_ioTopo hio)
        · rename_i hn
          exact (performs_applyPasses hs (Nat.pos_of_ne_zero h0)).step rfl
            (step_topo_count hs rfl hio hne (Nat.not_lt.mp hn)) (history_of_ioTopo hio)

/-! ### The command -/

/-- R248 from the acceptance on. -/
theorem exec_apply_performs :
    ∃ u, exec .apply s = .next u ∧ u.history = s.history ∧ Performs s u (applyProgram s) := by
  by_cases h0 : s.guard = guardUnchecked
  · rw [applyProgram_of_unchecked h0]
    exact ⟨_, exec_apply_of_unchecked h0, rfl, performs_finished s s.seq ⟨.platformUnchecked, ErrInfo.zero, s.io⟩⟩
  by_cases h2 : s.guard = guardUnsupported
  · rw [applyProgram_of_unsupported h2]
    exact ⟨_, exec_apply_of_unsupported h2, rfl, performs_finished s s.seq ⟨.platformUnsupported, ErrInfo.zero, s.io⟩⟩
  cases hv : s.slot.valid with
  | false =>
    rw [applyProgram_of_empty h0 h2 hv]
    exact ⟨_, exec_apply_of_empty h0 h2 hv, rfl, performs_finished s s.seq ⟨.noRegister, ErrInfo.zero, s.io⟩⟩
  | true =>
    rw [applyProgram_of_held h0 h2 hv]
    exact ⟨_, exec_apply_of_held h0 h2 hv, rfl, performs_topoProgram hs s.io⟩

end

section
variable {s : State} {c : Command} {rest : List HostMove}

/-- A presented APPLY that the program ends completes as the program ends, after one step for each of its requests. -/
theorem completesIn_of_applyProgram {e : ApplyEnd} (hp : presents s c rest) (hd : decode c = .legal .apply)
    (he : applyProgram s = some e) :
    ∃ waits q, completesIn waits s (({ s with host := rest } : State).finished q e) ∧
      e.io.history.length = s.history.length + waits := by
  obtain ⟨hc, hb, hh, hcmds⟩ := hp
  obtain ⟨u, hu, hhistory, hperforms⟩ := exec_apply_performs (s := { s with host := rest }) ⟨hc, hcmds⟩
  rw [← acceptCommand_of_legal hd, ← step_of_command hc hb hh] at hu
  have he' : applyProgram { s with host := rest } = some e := he
  rw [he'] at hperforms
  obtain ⟨waits, q, hfinish, hlength⟩ := hperforms
  exact ⟨waits, q, completesIn_of_step hu hfinish, hhistory ▸ hlength⟩

/-- A presented APPLY whose program has no end never completes. -/
theorem busy_of_applyProgram_none (hp : presents s c rest) (hd : decode c = .legal .apply)
    (he : applyProgram s = none) (n : Nat) : ∃ t, runsTo (n + 1) s t ∧ t.busy = true := by
  obtain ⟨hc, hb, hh, hcmds⟩ := hp
  obtain ⟨u, hu, _, hperforms⟩ := exec_apply_performs (s := { s with host := rest }) ⟨hc, hcmds⟩
  rw [← acceptCommand_of_legal hd, ← step_of_command hc hb hh] at hu
  have he' : applyProgram { s with host := rest } = none := he
  rw [he'] at hperforms
  obtain ⟨t, ht, htb⟩ := hperforms n
  exact ⟨t, (run_succ_of_next hu n).trans ht, htb⟩

/-- Every completion of a presented APPLY is the program's end. -/
theorem applyProgram_of_completesIn {t : State} {waits : Nat} (hp : presents s c rest) (hd : decode c = .legal .apply)
    (h : completesIn waits s t) :
    ∃ e q, applyProgram s = some e ∧ t = ({ s with host := rest } : State).finished q e ∧
      e.io.history.length = s.history.length + waits := by
  cases he : applyProgram s with
  | none =>
    obtain ⟨w, hw, hwb⟩ := busy_of_applyProgram_none hp hd he waits
    exact absurd hwb (ne_true_of_eq_false (busy_eq_false_of_completesIn h hw))
  | some e =>
    obtain ⟨waits', q, h', hlength⟩ := completesIn_of_applyProgram hp hd he
    obtain ⟨rfl, rfl⟩ := completesIn_unique h h'
    exact ⟨e, q, rfl, rfl, hlength⟩

end

/-- Settles O45: the simulation of the program by the block, from the step that accepts the command. -/
theorem applyIsTheSequentialProgram : Obligations.ApplyIsTheSequentialProgram := by
  unfold Obligations.ApplyIsTheSequentialProgram
  intro s c rest hp hd
  refine ⟨fun e he => ?_, busy_of_applyProgram_none hp hd⟩
  obtain ⟨waits, q, hcompletes, _⟩ := completesIn_of_applyProgram hp hd he
  exact ⟨waits, _, hcompletes, rfl, rfl, rfl, rfl, rfl, rfl, rfl, rfl, rfl, rfl⟩

end Sys2Proof.Machine
end

section
/-! PROOFS. The requests of the sequential program in order (spec/43_apply.md R243, R244): a successful APPLY sends them all, a
failed one a beginning. -/

namespace Sys2Proof.Machine

/-! ### A list of requests sent whole, or up to the one that failed -/

/-- From `io` to `io'` the requests `events` were sent: all of them, where no failure was raised; else a beginning, whose last
request failed as the error information says. -/
inductive Sends (io : Io) (events : List Event) (io' : Io) : Option ErrInfo → Prop where
  | all (h : io'.history = io.history ++ events) : Sends io events io' none
  | failed (done : List Event) (failed : Event) (unsent : List Event) (code : IoCode)
      (hevents : events = done ++ failed :: unsent)
      (h : io'.history = io.history ++ (done ++ [failedEvent code failed])) :
      Sends io events io' (some (failureInfo code failed))

section
variable {io io₁ io' : Io} {events : List Event}

/-- The first of the requests failed. -/
theorem Sends.failed_first {first : Event} {code : IoCode} (unsent : List Event)
    (h : io'.history = io.history ++ [failedEvent code first]) :
    Sends io (first :: unsent) io' (some (failureInfo code first)) :=
  .failed [] first unsent code rfl h

theorem Sends.append_left {sent : List Event} {r : Option ErrInfo} (h : Sends io₁ events io' r)
    (hsent : io₁.history = io.history ++ sent) : Sends io (sent ++ events) io' r := by
  cases h with
  | all h => exact .all (by rw [h, hsent, List.append_assoc])
  | failed done failed unsent code hevents h =>
    refine .failed (sent ++ done) failed unsent code ?_ ?_
    · rw [hevents, List.append_assoc]
    · rw [h, hsent, List.append_assoc, List.append_assoc]

theorem Sends.failure {info : ErrInfo} (h : Sends io events io' (some info)) :
    ∃ done failed unsent code, events = done ++ failed :: unsent ∧
      io'.history = io.history ++ (done ++ [failedEvent code failed]) ∧ info = failureInfo code failed := by
  cases h with
  | failed done failed unsent code hevents h => exact ⟨done, failed, unsent, code, hevents, h, rfl⟩

theorem Sends.append_right {info : ErrInfo} (h : Sends io events io' (some info)) (more : List Event) :
    Sends io (events ++ more) io' (some info) := by
  obtain ⟨done, failed, unsent, code, hevents, hhistory, rfl⟩ := h.failure
  exact .failed done failed (unsent ++ more) code (by rw [hevents, List.append_assoc]; rfl) hhistory

end

/-! ### The loops -/

/-- The requests of the broadcast pass for the `left` processors from `k` on. -/
def writeEvents (addr : MsrAddr) (value : Word) (k left : Nat) : List Event :=
  (List.range' k left).map fun k => Event.write k addr value (.ok ())

/-- The requests of the TSC-lock pass for the `left` processors from `k` on, whose HWCR reads answered `v`. -/
def lockEventsFrom (hw : MsrAddr) (v : Nat → Word) (k left : Nat) : List Event :=
  (List.range' k left).flatMap fun k => [Event.read k hw (.ok (v k)), Event.write k hw (withTscLock (v k)) (.ok ())]

theorem writeEvents_zero (addr : MsrAddr) (value : Word) (n : Nat) :
    writeEvents addr value 0 n = broadcastEvents addr value n := by
  rw [writeEvents, broadcastEvents, List.range_eq_range']

theorem lockEventsFrom_zero (hw : MsrAddr) (v : Nat → Word) (n : Nat) :
    lockEventsFrom hw v 0 n = lockEvents hw v n := by
  rw [lockEventsFrom, lockEvents, List.range_eq_range']
  rfl

theorem writeEvents_succ (addr : MsrAddr) (value : Word) (k left : Nat) :
    writeEvents addr value k (left + 1) = .write k addr value (.ok ()) :: writeEvents addr value (k + 1) left := by
  rw [writeEvents, List.range'_succ, List.map_cons]
  rfl

theorem lockEventsFrom_succ (hw : MsrAddr) (v : Nat → Word) (k left : Nat) :
    lockEventsFrom hw v k (left + 1) =
      [.read k hw (.ok (v k)), .write k hw (withTscLock (v k)) (.ok ())] ++ lockEventsFrom hw v (k + 1) left := by
  rw [lockEventsFrom, List.range'_succ, List.flatMap_cons]
  rfl

theorem lockEventsFrom_congr {hw : MsrAddr} {v w : Nat → Word} {k left : Nat} (h : ∀ j, k ≤ j → v j = w j) :
    lockEventsFrom hw v k left = lockEventsFrom hw w k left := by
  refine List.flatMap_congr fun j hj => ?_
  rw [h j (List.mem_range'_1.mp hj).1]

/-- The second loop sends the requests of the broadcast pass. -/
theorem writeLoop_sends {addr : MsrAddr} {value : Word} {left k : Nat} {io io' : Io} {r : Option ErrInfo}
    (h : writeLoop addr value left k io = some (r, io')) : Sends io (writeEvents addr value k left) io' r := by
  induction left generalizing k io with
  | zero =>
    cases h
    exact .all (List.append_nil _).symm
  | succ left ih =>
    rw [writeEvents_succ]
    cases hio : ioWrite addr k value io with
    | none => rw [writeLoop_of_none hio] at h; cases h
    | some r₁ =>
      obtain ⟨answer, io₁⟩ := r₁
      have hsent := history_of_ioWrite hio
      cases answer with
      | err c =>
        rw [writeLoop_of_err hio] at h
        cases h
        exact .failed_first (first := .write k addr value (.ok ())) _ hsent
      | ok _ =>
        rw [writeLoop_of_ok hio] at h
        exact (ih h).append_left hsent

/-- The first loop from a WRITE on, given what the later iterations send. -/
theorem lockWrite_sends {hw : MsrAddr} {left k : Nat} {x : Word} {io io' : Io} {r : Option ErrInfo}
    (h : lockWrite hw left k x io = some (r, io'))
    (hloop : ∀ io₁, lockLoop hw left (k + 1) io₁ = some (r, io') →
      ∃ v, Sends io₁ (lockEventsFrom hw v (k + 1) left) io' r) :
    ∃ v, Sends io (.write k hw x (.ok ()) :: lockEventsFrom hw v (k + 1) left) io' r := by
  cases hio : ioWrite hw k x io with
  | none => rw [lockWrite_of_none hio] at h; cases h
  | some r₁ =>
    obtain ⟨answer, io₁⟩ := r₁
    have hsent := history_of_ioWrite hio
    cases answer with
    | err c =>
      rw [lockWrite_of_err hio] at h
      cases h
      exact ⟨fun _ => 0#64, .failed_first (first := .write k hw x (.ok ())) _ hsent⟩
    | ok _ =>
      rw [lockWrite_of_ok hio] at h
      obtain ⟨v, hlater⟩ := hloop io₁ h
      exact ⟨v, hlater.append_left hsent⟩

/-- The events from processor `k` on, with the value read from it put in front. -/
theorem lockEventsFrom_update (hw : MsrAddr) (v : Nat → Word) (k left : Nat) (x : Word) :
    lockEventsFrom hw (Function.update v k x) k (left + 1) =
      .read k hw (.ok x) :: .write k hw (withTscLock x) (.ok ()) :: lockEventsFrom hw v (k + 1) left := by
  have hlater : lockEventsFrom hw (Function.update v k x) (k + 1) left = lockEventsFrom hw v (k + 1) left :=
    lockEventsFrom_congr fun j hj => Function.update_of_ne (Nat.ne_of_gt hj) x v
  rw [lockEventsFrom_succ, Function.update_self, hlater]
  rfl

/-- The first loop sends the requests of the TSC-lock pass, for some values read. -/
theorem lockLoop_sends {hw : MsrAddr} {left k : Nat} {io io' : Io} {r : Option ErrInfo}
    (h : lockLoop hw left k io = some (r, io')) : ∃ v, Sends io (lockEventsFrom hw v k left) io' r := by
  induction left generalizing k io with
  | zero =>
    cases h
    exact ⟨fun _ => 0#64, .all (List.append_nil _).symm⟩
  | succ left ih =>
    cases hio : ioRead hw k io with
    | none => rw [lockLoop_of_none hio] at h; cases h
    | some r₁ =>
      obtain ⟨answer, io₁⟩ := r₁
      have hsent := history_of_ioRead hio
      cases answer with
      | err c =>
        rw [lockLoop_of_err hio] at h
        cases h
        refine ⟨fun _ => 0#64, ?_⟩
        rw [lockEventsFrom_succ]
        exact .failed_first (first := .read k hw (.ok 0#64)) _ hsent
      | ok x =>
        rw [lockLoop_of_ok hio] at h
        obtain ⟨v, hlater⟩ := lockWrite_sends h fun io₂ h₂ => ih h₂
        refine ⟨Function.update v k x, ?_⟩
        rw [lockEventsFrom_update]
        exact hlater.append_left hsent

/-! ### The passes -/

/-- The requests of an APPLY on `n` processors after TOPO. -/
def passEvents (s : State) (v : Nat → Word) (n : Nat) : List Event :=
  (if s.slot.index = 0#3 then lockEvents s.cfg.hwcrAddr v n else []) ++
    broadcastEvents (pstateAddr s.slot.index.toNat) s.slot.raw n

/-- The target address of R226 by the two spellings of the index. -/
theorem pstateAddr_index (index : BitVec 3) : pstateAddr index.toNat = 0xC0010064#32 + index.setWidth 32 := by
  rw [pstateAddr, BitVec.ofNat_toNat]
  rfl

theorem applyEvents_eq (s : State) (v : Nat → Word) (n : Word) :
    applyEvents s.cfg s.slot v n = [.topo (.ok n)] ++ passEvents s v n.toNat := by
  rw [passEvents, pstateAddr_index]
  rfl

theorem lockEvents_length (hw : MsrAddr) (v : Nat → Word) (n : Nat) : (lockEvents hw v n).length = 2 * n := by
  simp [lockEvents, List.length_flatMap, Nat.mul_comm]

theorem broadcastEvents_length (addr : MsrAddr) (value : Word) (n : Nat) : (broadcastEvents addr value n).length = n := by
  simp [broadcastEvents]

/-- R243: `1 + 3N` requests for index 0, else `1 + N`. -/
theorem applyEvents_length (s : State) (v : Nat → Word) (n : Word) :
    (applyEvents s.cfg s.slot v n).length = if s.slot.index = 0#3 then 1 + 3 * n.toNat else 1 + n.toNat := by
  rw [applyEvents_eq, passEvents]
  split
  · simp only [List.length_append, List.length_singleton, lockEvents_length, broadcastEvents_length]
    omega
  · simp only [List.length_append, List.length_singleton, List.length_nil, broadcastEvents_length]
    omega

theorem lockPass_sends {s : State} {n : Word} {io io' : Io} {r : Option ErrInfo} (h : lockPass s n io = some (r, io')) :
    ∃ v, Sends io (if s.slot.index = 0#3 then lockEvents s.cfg.hwcrAddr v n.toNat else []) io' r := by
  unfold lockPass at h
  split at h
  · rename_i hindex
    obtain ⟨v, hsends⟩ := lockLoop_sends h
    rw [lockEventsFrom_zero] at hsends
    exact ⟨v, by rwa [if_pos hindex]⟩
  · rename_i hindex
    cases h
    exact ⟨fun _ => 0#64, by rw [if_neg hindex]; exact .all (List.append_nil _).symm⟩

/-- A loop with what comes after it ends with the failure of the loop, or as what comes after it. -/
theorem afterLoop_some {r : Option (Option ErrInfo × Io)} {next : Io → Option ApplyEnd} {e : ApplyEnd}
    (h : afterLoop r next = some e) :
    (∃ info io, r = some (some info, io) ∧ e = ⟨.registerIoFailure, info, io⟩) ∨
      ∃ io, r = some (none, io) ∧ next io = some e := by
  obtain _ | ⟨_ | info, io⟩ := r
  · cases h
  · exact .inr ⟨io, rfl, h⟩
  · cases h
    exact .inl ⟨info, io, rfl, rfl⟩

/-- The two passes end with the failure of one of their requests, or with all of them sent. -/
theorem applyPasses_sends {s : State} {n : Word} {io : Io} {e : ApplyEnd} (h : applyPasses s n io = some e) :
    ∃ v, (e.status = .ok ∧ Sends io (passEvents s v n.toNat) e.io none) ∨
      (e.status = .registerIoFailure ∧ Sends io (passEvents s v n.toNat) e.io (some e.info)) := by
  obtain ⟨info, io₁, hlock, rfl⟩ | ⟨io₁, hlock, hbroadcast⟩ := afterLoop_some h
  · obtain ⟨v, hsends⟩ := lockPass_sends hlock
    exact ⟨v, .inr ⟨rfl, hsends.append_right _⟩⟩
  · obtain ⟨v, hfirst⟩ := lockPass_sends hlock
    obtain ⟨hsent⟩ := hfirst
    obtain ⟨info, io₂, hloop, rfl⟩ | ⟨io₂, hloop, hend⟩ := afterLoop_some hbroadcast
    · have hsends := writeLoop_sends hloop
      rw [writeEvents_zero] at hsends
      exact ⟨v, .inr ⟨rfl, hsends.append_left hsent⟩⟩
    · have hsends := writeLoop_sends hloop
      rw [writeEvents_zero] at hsends
      cases hend
      exact ⟨v, .inl ⟨rfl, hsends.append_left hsent⟩⟩

/-- The program ends with `OK` or `RegisterIoFailure` only in its passes. -/
theorem applyPasses_of_applyProgram {s : State} {e : ApplyEnd} (h : applyProgram s = some e)
    (hst : e.status = .ok ∨ e.status = .registerIoFailure) :
    ∃ n io, ioTopo s.io = some (.ok n, io) ∧ 1 ≤ n.toNat ∧ n.toNat ≤ s.cfg.maskWidth ∧ applyPasses s n io = some e := by
  by_cases h0 : s.guard = guardUnchecked
  · rw [applyProgram_of_unchecked h0] at h
    cases h
    simp at hst
  by_cases h2 : s.guard = guardUnsupported
  · rw [applyProgram_of_unsupported h2] at h
    cases h
    simp at hst
  cases hv : s.slot.valid with
  | false =>
    rw [applyProgram_of_empty h0 h2 hv] at h
    cases h
    simp at hst
  | true =>
    rw [applyProgram_of_held h0 h2 hv] at h
    obtain ⟨⟨answer, io⟩, hio, hafter⟩ := Option.bind_eq_some_iff.mp h
    cases answer with
    | err c =>
      cases hafter
      simp at hst
    | ok n =>
      simp only [afterTopo] at hafter
      split at hafter
      · cases hafter
        simp at hst
      · rename_i hn0
        split at hafter
        · cases hafter
          simp at hst
        · rename_i hn
          exact ⟨n, io, hio, Nat.one_le_iff_ne_zero.mpr hn0, Nat.not_lt.mp hn, hafter⟩

/-- `RegisterIoFailure` is the only status with code 7 (spec/60_exceptions.md R270). -/
theorem statusCode_eq_seven_iff (st : Status) : statusCode st = 0x07#8 ↔ st = .registerIoFailure := by
  cases st <;> decide

/-- Settles O47: `RegisterIoFailure` is raised in the passes, where `Sends` names the beginning and the failed request. -/
theorem failedApplyStopsAtTheFailure : Obligations.FailedApplyStopsAtTheFailure := by
  unfold Obligations.FailedApplyStopsAtTheFailure
  intro s t c rest waits hp hd hcompletes hstatus
  obtain ⟨e, q, he, rfl, _⟩ := applyProgram_of_completesIn hp hd hcompletes
  have hfailed : e.status = .registerIoFailure := (statusCode_eq_seven_iff e.status).mp hstatus
  obtain ⟨n, io, htopo, _, _, hpasses⟩ := applyPasses_of_applyProgram he (.inr hfailed)
  obtain ⟨v, ⟨hok, _⟩ | ⟨_, hsends⟩⟩ := applyPasses_sends hpasses
  · exact absurd (hok.symm.trans hfailed) (by decide)
  obtain ⟨done, failed, unsent, code, hevents, hhistory, hinfo⟩ := hsends.failure
  refine ⟨n, v, .topo (.ok n) :: done, failed, unsent, code, ?_, List.cons_ne_nil _ _, ?_, hinfo⟩
  · rw [applyEvents_eq, hevents]
    rfl
  · have htopoSent : io.history = s.history ++ [.topo (.ok n)] := history_of_ioTopo htopo
    calc e.io.history = s.history ++ [.topo (.ok n)] ++ (done ++ [failedEvent code failed]) := htopoSent ▸ hhistory
      _ = s.history ++ .topo (.ok n) :: done ++ [failedEvent code failed] := by simp

end Sys2Proof.Machine
end

section
/-! PROOFS. The cells a successful APPLY leaves in the reference environment (spec/20_memory.md R64, R65, R67): what each pass
rewrites, and what it leaves. -/

namespace Sys2Proof.Machine

/-! ### Rewritten cells -/

/-- The reference environment, its cells in their canonical form. -/
structure Env.InReference (e : Env) : Prop where
  reading : e.reading = .reference
  msr_wf : Memory.wf e.msr = true

/-- From `m` to `m'` the cells at `addr` of the `left` processors from `k` on were rewritten by `f`, and no other. -/
structure Rewrites (f : Word → Word) (addr : MsrAddr) (k left : Nat) (m m' : Memory) : Prop where
  inside (j : Nat) (hk : k ≤ j) (hj : j < k + left) : readMsr m' j addr = f (readMsr m j addr)
  outside (j : Nat) (a : MsrAddr) (h : j < k ∨ k + left ≤ j ∨ a ≠ addr) : readMsr m' j a = readMsr m j a

theorem Rewrites.refl (f : Word → Word) (addr : MsrAddr) (k : Nat) (m : Memory) : Rewrites f addr k 0 m m :=
  ⟨fun _ hk hj => absurd hj (Nat.not_lt.mpr hk), fun _ _ _ => rfl⟩

/-- One cell rewritten, then those of the later processors. -/
theorem Rewrites.cons {f : Word → Word} {addr : MsrAddr} {k left : Nat} {m m' : Memory} (hm : Memory.wf m = true)
    (h : Rewrites f addr (k + 1) left (writeMsr m k addr (f (readMsr m k addr))) m') :
    Rewrites f addr k (left + 1) m m' where
  inside j hk hj := by
    by_cases hkj : j = k
    · subst hkj
      rw [h.outside j addr (.inl (Nat.lt_succ_self j)), readMsr_writeMsr_same j addr _ hm]
    · rw [h.inside j (by omega) (by omega), readMsr_writeMsr_other _ hm (.inl hkj)]
  outside j a hja := by
    obtain hj | hj | ha := hja
    · rw [h.outside j a (.inl (by omega)), readMsr_writeMsr_other _ hm (.inl (by omega))]
    · rw [h.outside j a (.inr (.inl (by omega))), readMsr_writeMsr_other _ hm (.inl (by omega))]
    · rw [h.outside j a (.inr (.inr ha)), readMsr_writeMsr_other _ hm (.inr ha)]

/-! ### Iterations without failure -/

section
variable {io io' : Io} {hw addr : MsrAddr} {left k : Nat} {value : Word}

/-- An iteration of the second loop without failure. -/
theorem writeLoop_succ_without_failure (h : writeLoop addr value (left + 1) k io = some (none, io')) :
    ∃ io₁, ioWrite addr k value io = some (.ok (), io₁) ∧ writeLoop addr value left (k + 1) io₁ = some (none, io') := by
  cases hio : ioWrite addr k value io with
  | none => rw [writeLoop_of_none hio] at h; cases h
  | some r =>
    obtain ⟨answer, io₁⟩ := r
    cases answer with
    | err c => rw [writeLoop_of_err hio] at h; cases h
    | ok _ => exact ⟨io₁, rfl, writeLoop_of_ok hio ▸ h⟩

/-- The READ of an iteration of the first loop without failure. -/
theorem lockLoop_succ_without_failure (h : lockLoop hw (left + 1) k io = some (none, io')) :
    ∃ x io₁, ioRead hw k io = some (.ok x, io₁) ∧ lockWrite hw left k (withTscLock x) io₁ = some (none, io') := by
  cases hio : ioRead hw k io with
  | none => rw [lockLoop_of_none hio] at h; cases h
  | some r =>
    obtain ⟨answer, io₁⟩ := r
    cases answer with
    | err c => rw [lockLoop_of_err hio] at h; cases h
    | ok x => exact ⟨x, io₁, rfl, lockLoop_of_ok hio ▸ h⟩

/-- The WRITE of an iteration of the first loop without failure. -/
theorem lockWrite_without_failure {x : Word} (h : lockWrite hw left k x io = some (none, io')) :
    ∃ io₁, ioWrite hw k x io = some (.ok (), io₁) ∧ lockLoop hw left (k + 1) io₁ = some (none, io') := by
  cases hio : ioWrite hw k x io with
  | none => rw [lockWrite_of_none hio] at h; cases h
  | some r =>
    obtain ⟨answer, io₁⟩ := r
    cases answer with
    | err c => rw [lockWrite_of_err hio] at h; cases h
    | ok _ => exact ⟨io₁, rfl, lockWrite_of_ok hio ▸ h⟩

end

/-! ### The requests and the passes -/

section
variable {io io' : Io} (hio : io.env.InReference)
include hio

/-- A READ answered `Ok` carries the cell and leaves the environment (R65). -/
theorem ioRead_ok_reference {addr : MsrAddr} {k : Nat} {x : Word} (h : ioRead addr k io = some (.ok x, io')) :
    x = readMsr io.env.msr k addr ∧ io'.env = io.env := by
  obtain ⟨d, rest, _, ha, rfl⟩ := ioRead_some h
  rw [readAnswer, maskCore, Nat.log2_two_pow] at ha
  refine ⟨?_, rfl⟩
  obtain hok | ⟨c, _, herr⟩ := valueAnswer_reference hio.reading d (readMsr io.env.msr k addr)
  · exact Answer.ok.inj (ha.symm.trans hok)
  · exact absurd (ha.symm.trans herr) (by simp)

/-- A WRITE answered `Ok` has been performed (R64). -/
theorem ioWrite_ok_reference {addr : MsrAddr} {k : Nat} {x : Word} (h : ioWrite addr k x io = some (.ok (), io')) :
    io'.env.InReference ∧ io'.env.msr = writeMsr io.env.msr k addr x := by
  obtain ⟨d, rest, _, ha, rfl⟩ := ioWrite_some h
  have hcells := envAfterWrite_reference hio.reading d addr (2 ^ k) x
  rw [if_pos (.inl (writeAnswer_eq_ok_iff.mp ha)), maskCore, Nat.log2_two_pow] at hcells
  obtain ⟨cells, henv⟩ := envAfterWrite_eq_cells io.env d addr (2 ^ k) x
  refine ⟨⟨?_, envAfterWrite_msr_wf hio.msr_wf d addr _ x⟩, hcells⟩
  rw [henv]
  exact hio.reading

/-- A broadcast pass without failure writes the value to each of its processors. -/
theorem writeLoop_rewrites {addr : MsrAddr} {value : Word} {left k : Nat}
    (h : writeLoop addr value left k io = some (none, io')) :
    Rewrites (fun _ => value) addr k left io.env.msr io'.env.msr := by
  induction left generalizing k io with
  | zero =>
    cases h
    exact .refl _ addr k _
  | succ left ih =>
    obtain ⟨io₁, hwrite, hlater⟩ := writeLoop_succ_without_failure h
    obtain ⟨href, hcells⟩ := ioWrite_ok_reference hio hwrite
    have hrewrites := ih href hlater
    rw [hcells] at hrewrites
    exact hrewrites.cons hio.msr_wf

/-- A TSC-lock pass without failure sets the lock bit in HWCR of each of its processors. -/
theorem lockLoop_rewrites {hw : MsrAddr} {left k : Nat} (h : lockLoop hw left k io = some (none, io')) :
    io'.env.InReference ∧ Rewrites withTscLock hw k left io.env.msr io'.env.msr := by
  induction left generalizing k io with
  | zero =>
    cases h
    exact ⟨hio, .refl _ hw k _⟩
  | succ left ih =>
    obtain ⟨x, io₁, hread, hrest⟩ := lockLoop_succ_without_failure h
    obtain ⟨io₂, hwrite, hlater⟩ := lockWrite_without_failure hrest
    obtain ⟨rfl, henv⟩ := ioRead_ok_reference hio hread
    obtain ⟨href, hcells⟩ := ioWrite_ok_reference (henv ▸ hio) hwrite
    obtain ⟨hend, hrewrites⟩ := ih href hlater
    rw [hcells, henv] at hrewrites
    exact ⟨hend, hrewrites.cons hio.msr_wf⟩

theorem lockPass_rewrites {s : State} {n : Word} (h : lockPass s n io = some (none, io')) :
    io'.env.InReference ∧ Rewrites withTscLock s.cfg.hwcrAddr 0 (if s.slot.index = 0#3 then n.toNat else 0)
      io.env.msr io'.env.msr := by
  unfold lockPass at h
  split at h
  · rename_i hindex
    rw [if_pos hindex]
    exact lockLoop_rewrites hio h
  · rename_i hindex
    cases h
    rw [if_neg hindex]
    exact ⟨hio, .refl _ _ _ _⟩

/-- Two passes without failure: HWCR first, for index 0, then the target. -/
theorem applyPasses_rewrites {s : State} {n : Word} {e : ApplyEnd} (h : applyPasses s n io = some e)
    (hst : e.status = .ok) :
    ∃ m, Rewrites withTscLock s.cfg.hwcrAddr 0 (if s.slot.index = 0#3 then n.toNat else 0) io.env.msr m ∧
      Rewrites (fun _ => s.slot.raw) (pstateAddr s.slot.index.toNat) 0 n.toNat m e.io.env.msr := by
  obtain ⟨info, io₁, _, rfl⟩ | ⟨io₁, hlock, hbroadcast⟩ := afterLoop_some h
  · exact absurd hst (by simp)
  obtain ⟨href, hfirst⟩ := lockPass_rewrites hio hlock
  obtain ⟨info, io₂, _, rfl⟩ | ⟨io₂, hloop, hend⟩ := afterLoop_some hbroadcast
  · exact absurd hst (by simp)
  cases hend
  exact ⟨io₁.env.msr, hfirst, writeLoop_rewrites href hloop⟩

/-- In the reference environment an `Ok` of TOPO carries `N_hw` (R67). -/
theorem ioTopo_ok_reference {n : Word} (h : ioTopo io = some (.ok n, io')) : n = io.env.nHw ∧ io'.env = io.env := by
  obtain ⟨d, rest, _, ha, rfl⟩ := ioTopo_some h
  refine ⟨?_, rfl⟩
  obtain hok | ⟨c, _, herr⟩ := valueAnswer_reference hio.reading d io.env.nHw
  · exact Answer.ok.inj (ha.symm.trans hok)
  · exact absurd (ha.symm.trans herr) (by simp)

end

/-- Settles O46: the requests by `Sends`, their number by `applyEvents_length`, the cells by the two passes' `Rewrites`. -/
theorem successfulApplySendsExactlyItsRequests : Obligations.SuccessfulApplySendsExactlyItsRequests := by
  unfold Obligations.SuccessfulApplySendsExactlyItsRequests
  intro s t c rest waits hp hd hcompletes hstatus
  obtain ⟨e, q, he, rfl, hlength⟩ := applyProgram_of_completesIn hp hd hcompletes
  have hok : e.status = .ok := (statusCode_eq_zero_iff e.status).mp hstatus
  obtain ⟨n, io, htopo, hpos, hle, hpasses⟩ := applyPasses_of_applyProgram he (.inl hok)
  obtain ⟨v, ⟨_, hsends⟩ | ⟨hfailed, _⟩⟩ := applyPasses_sends hpasses
  rotate_left
  · exact absurd (hok.symm.trans hfailed) (by decide)
  obtain ⟨hhistory⟩ : Sends s.io (applyEvents s.cfg s.slot v n) e.io none :=
    applyEvents_eq s v n ▸ hsends.append_left (history_of_ioTopo htopo)
  refine ⟨n, v, hpos, hle, hhistory, ?_, fun hread hwf => ?_⟩
  · rw [hhistory, List.length_append, applyEvents_length] at hlength
    exact (Nat.add_left_cancel hlength).symm
  have href : s.io.env.InReference := ⟨hread, hwf⟩
  obtain ⟨hn, henv⟩ := ioTopo_ok_reference href htopo
  obtain ⟨m, hlock, hbroadcast⟩ := applyPasses_rewrites (henv ▸ href) hpasses hok
  rw [henv] at hlock
  rw [← pstateAddr_index]
  refine ⟨hn, fun k hk => hbroadcast.inside k (Nat.zero_le k) (by omega), fun hindex hne k hk b hb => ?_, fun k a hka => ?_⟩
  · have htarget : s.cfg.hwcrAddr ≠ pstateAddr s.slot.index.toNat := by rw [hindex]; exact hne
    rw [if_pos hindex] at hlock
    have hcell : readMsr e.io.env.msr k s.cfg.hwcrAddr = withTscLock (readMsr s.env.msr k s.cfg.hwcrAddr) :=
      (hbroadcast.outside k _ (.inr (.inr htarget))).trans (hlock.inside k (Nat.zero_le k) (by omega))
    exact hcell ▸ withTscLock_getLsbD _ hb
  · obtain hk | ⟨htarget, hhwcr⟩ := hka
    · exact (hbroadcast.outside k a (.inr (.inl (by omega)))).trans (hlock.outside k a (.inr (.inl (by split <;> omega))))
    · refine (hbroadcast.outside k a (.inr (.inr htarget))).trans (hlock.outside k a ?_)
      by_cases hindex : s.slot.index = 0#3
      · exact .inr (.inr (hhwcr hindex))
      · exact .inr (.inl (by rw [if_neg hindex]; omega))

end Sys2Proof.Machine
end

section
/-! PROOFS. The machine goes on (spec/60_exceptions.md R280, R270): every error is a status, so a state of the invariant always has
a next state; and an idle block with no move to come has itself as its next state (R295, R312). -/

namespace Sys2Proof.Machine

/-! ### An idle block with no move to come -/

theorem step_of_idle {s : State} (hc : s.cfg.wf = true) (hb : s.busy = false) (hh : s.host = []) : step s = .next s := by
  simp [step, stepBody, idleStep, hc, hb, hh]

/-- A state that steps to itself runs to itself. -/
theorem runsTo_self_of_fixed {s : State} (hstep : step s = .next s) (n : Nat) : runsTo n s s := by
  induction n with
  | zero => rfl
  | succ n ih => exact (run_succ_of_next hstep n).trans ih

/-- Settles O7: the step of an idle block without a move leaves the state as it is, so every run of such steps does. -/
theorem idleBlockStaysIdle : Obligations.IdleBlockStaysIdle := by
  unfold Obligations.IdleBlockStaysIdle
  intro s n hc hb hh
  exact runsTo_self_of_fixed (step_of_idle hc hb hh) n

/-! ### Where the block has a next state -/

/-- A block with an outstanding request waits or takes the answer; `busyWithoutRequest` is for the phase IDLE alone. -/
theorem exists_waitStep_of_phase_ne_idle {s : State} (hp : s.seq.phase ≠ .idle) : ∃ t, waitStep s = .next t := by
  rw [waitStep, if_neg hp]
  cases s.draws with
  | nil => exact ⟨_, rfl⟩
  | cons d rest => exact ⟨_, rfl⟩

theorem exists_busyStep_of_phase_ne_idle {s : State} (hp : s.seq.phase ≠ .idle) : ∃ t, busyStep s = .next t := by
  unfold busyStep
  cases s.host with
  | nil => exact exists_waitStep_of_phase_ne_idle hp
  | cons m rest =>
    cases m with
    | reset => exact ⟨_, rfl⟩
    | poll | command | outsideWrite => exact exists_waitStep_of_phase_ne_idle hp

/-- Every word is accepted: a command ends at once or launches (`exec_frame`), and a word that is none ends with a status
(R98). -/
theorem exists_acceptCommand (c : Command) (s : State) : ∃ t, acceptCommand c s = .next t := by
  unfold acceptCommand
  cases decode c with
  | legal i =>
    obtain ⟨t, ht, -⟩ := exec_frame i s
    exact ⟨t, ht⟩
  | illegal why => exact ⟨_, rfl⟩

theorem exists_idleStep (s : State) : ∃ t, idleStep s = .next t := by
  unfold idleStep
  cases s.host with
  | nil => exact ⟨_, rfl⟩
  | cons m rest =>
    cases m with
    | command c => exact exists_acceptCommand c _
    | reset | poll | outsideWrite => exact ⟨_, rfl⟩

/-- The two causes for which `step` gives no next state are the ill-formed configuration (R10) and a busy block in the phase IDLE
(R26, assumption 10). -/
theorem exists_step_of_wf {s : State} (hc : s.cfg.wf = true) (hp : s.busy = true → s.seq.phase ≠ .idle) :
    ∃ t, step s = .next t := by
  rw [step, if_pos hc, stepBody]
  cases hb : s.busy with
  | true => exact exists_busyStep_of_phase_ne_idle (hp hb)
  | false => exact exists_idleStep s

/-- Settles O52: the invariant holds a well-formed configuration and, where the block is busy, an outstanding request (R26). -/
theorem invariantStatesAlwaysStep : Obligations.InvariantStatesAlwaysStep := by
  unfold Obligations.InvariantStatesAlwaysStep
  intro s hs
  exact exists_step_of_wf hs.cfg_wf hs.busy_phase.mp

end Sys2Proof.Machine
end

section
/-! PROOFS. A request that is never answered (spec/70_reset_and_hazards.md R323), and the reset move, which abandons the outstanding
request and resets every block register (R310, R311). -/

namespace Sys2Proof.Machine

/-! ### No answer -/

/-- A list of commands begins with no other move. -/
theorem ne_cons_of_commandsOnly {moves rest : List HostMove} {m : HostMove} (h : commandsOnly moves = true)
    (hm : commandsOnly (m :: rest) = false) : moves ≠ m :: rest :=
  fun hh => Bool.false_ne_true (hm.symm.trans (hh ▸ h))

/-- Without a draw the step of a waiting block leaves the state as it is (R230, assumption 2). -/
theorem step_of_unanswered {s : State} (hc : s.cfg.wf = true) (hb : s.busy = true) (hp : s.seq.phase ≠ .idle)
    (hd : s.draws = []) (hcmds : commandsOnly s.host = true) : step s = .next s := by
  have hwait : step s = waitStep s :=
    step_of_busy hc hb (fun _ => ne_cons_of_commandsOnly hcmds rfl) (fun _ => ne_cons_of_commandsOnly hcmds rfl)
  rw [hwait, waitStep, if_neg hp, hd]

/-- Settles O6: the step without an answer leaves the state as it is, so every run of such steps does. -/
theorem unansweredRequestHangsForEver : Obligations.UnansweredRequestHangsForEver := by
  unfold Obligations.UnansweredRequestHangsForEver
  intro s n hc hb hp hd hcmds
  exact runsTo_self_of_fixed (step_of_unanswered hc hb hp hd hcmds) n

/-! ### Reset -/

/-- A reset is taken busy or not (R310). -/
theorem step_of_reset {s : State} {rest : List HostMove} (hc : s.cfg.wf = true) (hh : s.host = .reset :: rest) :
    step s = .next (applyReset { s with host := rest }) := by
  rw [step, if_pos hc, stepBody]
  split
  · rw [busyStep, hh]
  · rw [idleStep, hh]

/-- Every waiting phase has a request outstanding (spec/43_apply.md R230). -/
theorem outstanding_eq_none_iff {s : State} : outstanding s = none ↔ s.seq.phase = .idle := by
  cases hp : s.seq.phase <;> simp [outstanding, hp]

/-- An abandoned request leaves the cells, or it is a WRITE of the reference environment and has been performed (R310). -/
theorem envAfterRequest_cases (e : Env) (d : Draw) (r : Request) :
    envAfterRequest e d r = e ∨ ∃ a m v, r = .write a m v ∧ e.reading = .reference ∧
      envAfterRequest e d r = { e with msr := writeMsr e.msr (maskCore m) a v } := by
  cases r with
  | plat | topo | read => exact .inl rfl
  | write a m v => exact (envAfterWrite_cases e d a m v).imp_right fun h => ⟨a, m, v, rfl, h⟩

/-- The draws after a reset (assumption 8). -/
theorem applyReset_draws (s : State) :
    (applyReset s).draws = if s.seq.phase = .idle then s.draws else s.draws.tail := by
  cases hr : outstanding s with
  | none => rw [applyReset_of_unanswered (.inl hr), if_pos (outstanding_eq_none_iff.mp hr)]; rfl
  | some r =>
    have hp : s.seq.phase ≠ .idle := fun hp => by simp [outstanding_eq_none_iff.mpr hp] at hr
    rw [if_neg hp]
    cases hd : s.draws with
    | nil => rw [applyReset_of_unanswered (.inr hd)]; exact hd
    | cons d rest => rw [applyReset_of_abandoned hr hd]; rfl

/-- The cells after a reset: as before, or with the outstanding WRITE of the reference environment performed. -/
theorem applyReset_env (s : State) :
    (applyReset s).env = s.env ∨ ∃ a m v, outstanding s = some (.write a m v) ∧ s.env.reading = .reference ∧
      (applyReset s).env = { s.env with msr := writeMsr s.env.msr (maskCore m) a v } := by
  cases hr : outstanding s with
  | none => rw [applyReset_of_unanswered (.inl hr)]; exact .inl rfl
  | some r =>
    cases hd : s.draws with
    | nil => rw [applyReset_of_unanswered (.inr hd)]; exact .inl rfl
    | cons d rest =>
      rw [applyReset_of_abandoned hr hd]
      obtain h | ⟨a, m, v, rfl, href, h⟩ := envAfterRequest_cases s.env d r
      · exact .inl h
      · exact .inr ⟨a, m, v, rfl, href, h⟩

/-- Settles O9: the registers by `applyReset_eq`, the draws and the cells by the two lemmas above, and the WRITE by the phase that
has it outstanding. -/
theorem resetMoveResetsTheBlock : Obligations.ResetMoveResetsTheBlock := by
  unfold Obligations.ResetMoveResetsTheBlock
  intro s rest hc hh
  have hdraws := applyReset_draws { s with host := rest }
  have henv := applyReset_env { s with host := rest }
  obtain ⟨cells, ds, he, -⟩ := applyReset_eq { s with host := rest }
  rw [he] at hdraws henv
  obtain rfl : ds = _ := hdraws
  refine ⟨_, cells, (step_of_reset hc hh).trans (congrArg _ he), rfl, ?_⟩
  obtain hsame | ⟨a, m, v, hr, href, hwritten⟩ := henv
  · exact .inl (congrArg Env.msr hsame)
  · have hcells : cells = writeMsr s.env.msr (maskCore m) a v := congrArg Env.msr hwritten
    obtain ⟨hp, rfl, rfl, rfl⟩ | ⟨hp, rfl, rfl, rfl⟩ := outstanding_eq_write_iff.mp hr
    · exact .inr (.inl ⟨hp, href, by rwa [maskCore_coreMask] at hcells⟩)
    · exact .inr (.inr ⟨hp, href, by rwa [maskCore_coreMask] at hcells⟩)

end Sys2Proof.Machine
end

section
/-! PROOFS. Dry runs (spec/70_reset_and_hazards.md R316): where the host presents no APPLY the block sends at most one request
PLAT, because its answer latches the guard, and only a reset returns both the guard and the history to their start. -/

namespace Sys2Proof.Machine

theorem exec_history {i : Instr} {s t : State} (h : exec i s = .next t) : t.history = s.history := by
  obtain ⟨u, hu, _, _, _, _, hhistory⟩ := exec_frame i s
  cases h.symm.trans hu
  exact hhistory

/-! ### The moves of a dry run -/

theorem dryRun_tail {m : HostMove} {rest : List HostMove} (h : dryRun (m :: rest) = true) : dryRun rest = true := by
  cases m with
  | command c => exact (Bool.and_eq_true_iff.mp h).2
  | reset | poll | outsideWrite => exact h

theorem step_dryRun {s t : State} (h : step s = .next t) (hdry : dryRun s.host = true) : dryRun t.host = true := by
  obtain heq | ⟨m, heq⟩ := step_host h
  · rwa [heq]
  · exact dryRun_tail (heq ▸ hdry)

/-- The moves of a dry run present no APPLY. -/
theorem ne_apply_of_dryRun {c : Command} {i : Instr} {rest : List HostMove} (hd : decode c = .legal i)
    (h : dryRun (.command c :: rest) = true) : i ≠ .apply := by
  rintro rfl
  simp [dryRun, hd] at h

/-! ### The history of a dry run -/

/-- The guard's request has been answered, so no other is sent before a reset (spec/43_apply.md R221). -/
def State.Latched (s : State) : Prop := s.guard = guardSupported ∨ s.guard = guardUnsupported

/-- Since the last reset the block has sent no request but PLAT: none is answered yet, or the block is idle with the answer
latched. -/
inductive State.Dry (s : State) : Prop where
  | unanswered (hhistory : s.history = []) (hphase : s.busy = true → s.seq.phase = .platWait)
  | answered (b : Bool) (hhistory : s.history = [.plat b]) (hbusy : s.busy = false) (hlatched : s.Latched)

/-- A step to an idle state that leaves the history and the guard. -/
theorem State.Dry.of_idle {s t : State} (h : s.Dry) (hbusy : t.busy = false) (hhistory : t.history = s.history)
    (hguard : t.guard = s.guard) : t.Dry := by
  cases h with
  | unanswered hempty => exact .unanswered (hhistory.trans hempty) fun hb => absurd hb (ne_true_of_eq_false hbusy)
  | answered b hplat _ hlatched => exact .answered b (hhistory.trans hplat) hbusy (by rwa [State.Latched, hguard])

/-- A command that is no APPLY ends at once, or is a CHKPLAT of a block that has not asked. -/
theorem State.Dry.exec {i : Instr} {s t : State} (h : s.Dry) (hi : i ≠ .apply) (he : exec i s = .next t) : t.Dry := by
  obtain hend | hlaunch := exec_cases he
  · exact h.of_idle hend.busy (exec_history he) hend.guard
  · cases hlaunch with
    | apply => exact absurd rfl hi
    | chkplat hnot1 hnot2 =>
      cases h with
      | unanswered hempty => exact .unanswered hempty fun _ => rfl
      | answered _ _ _ hlatched => exact absurd hlatched (by simp [State.Latched, hnot1, hnot2])

/-- The answer to PLAT is the one event, and latches the guard. -/
theorem platStep_dry {s : State} (d : Draw) (hempty : s.history = []) : (platStep d s).Dry := by
  cases ha : platAnswer s.env d with
  | true =>
    rw [platStep_of_supported ha]
    exact .answered true (by simp [hempty]) rfl (.inl rfl)
  | false =>
    rw [platStep_of_unsupported ha]
    exact .answered false (by simp [hempty]) rfl (.inr rfl)

theorem step_dry {s t : State} (h : step s = .next t) (hdry : dryRun s.host = true) (hs : s.Dry) : t.Dry := by
  obtain ⟨_, hm⟩ := step_moves h
  cases hm with
  | reset => exact .unanswered rfl fun hb => absurd hb Bool.false_ne_true
  | command c i rest _ hb hh hd he =>
    have hs' : ({ s with host := rest } : State).Dry := hs.of_idle hb rfl rfl
    exact hs'.exec (ne_apply_of_dryRun hd (hh ▸ hdry)) he
  | illegal => exact hs.of_idle rfl rfl rfl
  | outside _ _ _ _ hb | poll _ hb => exact hs.of_idle hb rfl rfl
  | idle => exact hs
  | unanswered left hb =>
    cases hs with
    | unanswered hempty hphase => exact .unanswered hempty hphase
    | answered _ _ hidle => exact absurd hb (ne_true_of_eq_false hidle)
  | answered left d rest hb hp =>
    cases hs with
    | unanswered hempty hphase =>
      simp only [answerStep, hphase hb]
      exact platStep_dry d hempty
    | answered _ _ hidle => exact absurd hb (ne_true_of_eq_false hidle)

theorem run_dry {n : Nat} {s t : State} (hdry : dryRun s.host = true) (hs : s.Dry) (h : runsTo n s t) : t.Dry := by
  induction n generalizing s with
  | zero => cases h; exact hs
  | succ n ih =>
    obtain ⟨u, hu, hrun⟩ := run_succ_next h
    exact ih (step_dryRun hu hdry) (step_dry hu hdry hs) hrun

/-- Settles O57: `State.Dry` holds of an idle state with an empty history and is kept along the run. -/
theorem dryRunSendsNoMsrRequest : Obligations.DryRunSendsNoMsrRequest := by
  unfold Obligations.DryRunSendsNoMsrRequest
  intro n s t hb hempty hdry h
  have hs : s.Dry := .unanswered hempty fun hbusy => absurd hbusy (ne_true_of_eq_false hb)
  cases run_dry hdry hs h with
  | unanswered hhistory => exact .inl hhistory
  | answered b hhistory => exact .inr ⟨b, hhistory⟩

end Sys2Proof.Machine
end

section
/-! PROOFS. The TSC lock before the writes to P-state register 0 (spec/70_reset_and_hazards.md R320, spec/43_apply.md R246): what
the history holds of the APPLY in progress is tied to its sequencer registers, phase by phase, and every write to register 0 is
sent with the whole TSC-lock pass behind it. -/

namespace Sys2Proof.Machine

/-! ### The event of a waiting step -/

/-- The event records the request, with some answer (R40). -/
def Request.answeredBy (r : Request) (e : Event) : Prop :=
  match r with
  | .plat => ∃ b, e = .plat b
  | .topo => ∃ a, e = .topo a
  | .read addr mask => ∃ a, e = .read (maskCore mask) addr a
  | .write addr mask v => ∃ a, e = .write (maskCore mask) addr v a

/-- A waiting step appends one event, that of the outstanding request (spec/43_apply.md R230). -/
theorem Advances.history {d : Draw} {s t : State} (h : Advances d s t) :
    ∃ r e, outstanding s = some r ∧ r.answeredBy e ∧ t.history = s.history ++ [e] := by
  have hread (a : Answer Word) : (Request.read s.cfg.hwcrAddr (coreMask s.seq.k)).answeredBy
      (.read s.seq.k.toNat s.cfg.hwcrAddr a) := ⟨a, by rw [maskCore_coreMask]⟩
  have hwrite (addr : MsrAddr) (v : Word) (a : Answer Unit) : (Request.write addr (coreMask s.seq.k) v).answeredBy
      (.write s.seq.k.toNat addr v a) := ⟨a, by rw [maskCore_coreMask]⟩
  cases h with
  | platSupported hp | platUnsupported hp => exact ⟨.plat, _, by rw [outstanding, hp], ⟨_, rfl⟩, rfl⟩
  | topoError _ hp | topoZero hp | topoTooMany _ hp | topoLock _ hp | topoBroadcast _ hp =>
    exact ⟨.topo, _, by rw [outstanding, hp], ⟨_, rfl⟩, rfl⟩
  | readError _ hp | readOk _ hp => exact ⟨_, _, outstanding_eq_read_iff.mpr ⟨hp, rfl, rfl⟩, hread _, rfl⟩
  | lockError _ hp | lockNext hp | lockLast hp =>
    exact ⟨_, _, outstanding_eq_write_iff.mpr (.inl ⟨hp, rfl, rfl, rfl⟩), hwrite _ _ _, rfl⟩
  | broadcastError _ hp | broadcastNext hp | broadcastLast hp =>
    exact ⟨_, _, outstanding_eq_write_iff.mpr (.inr ⟨hp, rfl, rfl, rfl⟩), hwrite _ _ _, rfl⟩

theorem Request.answeredBy.of_write {r : Request} {k : Nat} {addr : MsrAddr} {v : Word} {a : Answer Unit}
    (h : r.answeredBy (.write k addr v a)) : ∃ mask, r = .write addr mask v ∧ k = maskCore mask := by
  cases r with
  | plat | topo | read =>
    obtain ⟨_, h⟩ := h
    cases h
  | write addr' mask v' =>
    obtain ⟨_, h⟩ := h
    cases h
    exact ⟨mask, rfl, rfl⟩

/-! ### Processors locked since TOPO -/

section
variable {hw : MsrAddr} {n : Word} {m k : Nat} {x : Word} {history : List Event}

/-- A completed WRITE to HWCR of processor `j`, with bit 21 set, is among the events (R238, R239). -/
def LockedIn (hw : MsrAddr) (events : List Event) (j : Nat) : Prop :=
  ∃ h : Word, Event.write j hw h (.ok ()) ∈ events ∧ h.getLsbD 21 = true

/-- The last TOPO of the history counted `n` processors, and since then the first `m` of them have been locked. -/
def LockedSinceTopo (hw : MsrAddr) (n : Word) (m : Nat) (history : List Event) : Prop :=
  ∃ earlier since, history = earlier ++ .topo (.ok n) :: since ∧ (∀ x, Event.topo x ∉ since) ∧ ∀ j < m, LockedIn hw since j

theorem LockedIn.append {events : List Event} {j : Nat} (h : LockedIn hw events j) (more : List Event) :
    LockedIn hw (events ++ more) j := by
  obtain ⟨x, hmem, hbit⟩ := h
  exact ⟨x, List.mem_append_left more hmem, hbit⟩

theorem LockedSinceTopo.start (hw : MsrAddr) (n : Word) (history : List Event) :
    LockedSinceTopo hw n 0 (history ++ [.topo (.ok n)]) :=
  ⟨history, [], rfl, fun _ => List.not_mem_nil, fun _ hj => absurd hj (Nat.not_lt_zero _)⟩

theorem LockedSinceTopo.mono {m' : Nat} (h : LockedSinceTopo hw n m history) (hle : m' ≤ m) :
    LockedSinceTopo hw n m' history := by
  obtain ⟨earlier, since, hhistory, htopo, hlocked⟩ := h
  exact ⟨earlier, since, hhistory, htopo, fun j hj => hlocked j (hj.trans_le hle)⟩

/-- No later event but a TOPO takes a lock back. -/
theorem LockedSinceTopo.record (h : LockedSinceTopo hw n m history) {e : Event} (he : ∀ x, e ≠ .topo x) :
    LockedSinceTopo hw n m (history ++ [e]) := by
  obtain ⟨earlier, since, rfl, htopo, hlocked⟩ := h
  refine ⟨earlier, since ++ [e], by simp, fun x hmem => ?_, fun j hj => (hlocked j hj).append [e]⟩
  obtain hin | rfl := List.mem_append.mp hmem |>.imp_right List.mem_singleton.mp
  · exact htopo x hin
  · exact he x rfl

/-- A completed WRITE of the lock locks the next processor. -/
theorem LockedSinceTopo.lock (h : LockedSinceTopo hw n m history) (hx : x.getLsbD 21 = true) :
    LockedSinceTopo hw n (m + 1) (history ++ [.write m hw x (.ok ())]) := by
  obtain ⟨earlier, since, rfl, htopo, hlocked⟩ := h
  refine ⟨earlier, since ++ [.write m hw x (.ok ())], by simp, fun y hmem => htopo y (by simpa using hmem), fun j hj => ?_⟩
  obtain hlt | rfl := Nat.lt_succ_iff_lt_or_eq.mp hj
  · exact (hlocked j hlt).append _
  · exact ⟨x, by simp, hx⟩

/-! ### The writes to P-state register 0 in a history -/

/-- Before each write to P-state register 0 all the processors of its APPLY have been locked, its own among them (R320). -/
def LockFirst (hw : MsrAddr) (history : List Event) : Prop :=
  ∀ before k v a, before ++ [.write k pstateBase v a] <+: history →
    ∃ count : Word, LockedSinceTopo hw count count.toNat before ∧ k < count.toNat

theorem lockFirst_nil (hw : MsrAddr) : LockFirst hw [] := fun _ _ _ _ h => by simp at h

theorem LockFirst.record (h : LockFirst hw history) {e : Event}
    (he : ∀ k v a, e = .write k pstateBase v a →
      ∃ count : Word, LockedSinceTopo hw count count.toNat history ∧ k < count.toNat) :
    LockFirst hw (history ++ [e]) := by
  intro before k v a hprefix
  obtain hwhole | hearlier := List.prefix_concat_iff.mp hprefix
  · obtain ⟨rfl, hevent⟩ := List.append_inj' hwhole rfl
    exact he k v a (List.singleton_inj.mp hevent).symm
  · exact h before k v a hearlier

end

/-! ### The invariant -/

/-- How many processors the APPLY in progress has locked, by its phase (R236, R239, R246). -/
def lockedCores (q : Seq) : Nat :=
  match q.phase with
  | .idle | .platWait | .topoWait => 0
  | .tscRdWait | .tscWrWait => q.k.toNat
  | .bcWrWait => if q.tsc = true then q.n.toNat else 0

section
variable {q : Seq}

theorem lockedCores_of_tscRdWait (h : q.phase = .tscRdWait) : lockedCores q = q.k.toNat := by
  rw [lockedCores, h]

theorem lockedCores_of_tscWrWait (h : q.phase = .tscWrWait) : lockedCores q = q.k.toNat := by
  rw [lockedCores, h]

theorem lockedCores_of_bcWrWait (h : q.phase = .bcWrWait) : lockedCores q = if q.tsc = true then q.n.toNat else 0 := by
  rw [lockedCores, h]

theorem lockedCores_le_of_bcWrWait (h : q.phase = .bcWrWait) : lockedCores q ≤ q.n.toNat := by
  rw [lockedCores_of_bcWrWait h]
  split
  · exact Nat.le_refl _
  · exact Nat.zero_le _

end

/-- The history of a block whose every write to P-state register 0 follows the locks, its sequencer registers telling of the APPLY
in progress what the history does. -/
structure State.LocksFirst (s : State) : Prop where
  past : LockFirst s.cfg.hwcrAddr s.history
  present : passPhase s.seq.phase = true → LockedSinceTopo s.cfg.hwcrAddr s.seq.n (lockedCores s.seq) s.history

theorem State.LocksFirst.of_idle {s : State} (hp : s.seq.phase = .idle) (hpast : LockFirst s.cfg.hwcrAddr s.history) :
    s.LocksFirst :=
  ⟨hpast, fun h => by simp [hp, passPhase] at h⟩

theorem pstateAddr_eq_pstateBase_iff {index : BitVec 3} : pstateAddr index.toNat = pstateBase ↔ index = 0#3 := by
  have haddr := pstateAddr_toNat (Nat.le_of_lt_succ index.isLt)
  constructor
  · intro h
    rw [h] at haddr
    exact BitVec.eq_of_toNat_eq (by simpa [pstateBase] using haddr.symm)
  · rintro rfl
    rfl

/-- A write to P-state register 0 is outstanding only in the broadcast pass of an APPLY with index 0, and by then the TSC-lock pass
has locked every processor (R246). -/
theorem locked_of_outstanding_base {s : State} (hinv : s.Inv) (hs : s.LocksFirst) (hne : s.cfg.hwcrAddr ≠ pstateBase)
    {mask : Nat} {v : Word} (h : outstanding s = some (.write pstateBase mask v)) :
    LockedSinceTopo s.cfg.hwcrAddr s.seq.n s.seq.n.toNat s.history ∧ maskCore mask < s.seq.n.toNat := by
  obtain ⟨hpass, rfl, -⟩ := outstanding_msr (.inr h)
  obtain ⟨-, haddr, -, -⟩ | ⟨hp, haddr, -, -⟩ := outstanding_eq_write_iff.mp h
  · exact absurd haddr.symm hne
  · obtain ⟨htarget, -, htsc⟩ := hinv.apply_target (applyPhase_of_passPhase hpass)
    have hindex : s.slot.index = 0#3 := pstateAddr_eq_pstateBase_iff.mp (htarget.symm.trans haddr.symm)
    have hlocked := hs.present hpass
    rw [lockedCores_of_bcWrWait hp, htsc, hindex, if_pos (decide_eq_true rfl)] at hlocked
    rw [maskCore_coreMask]
    exact ⟨hlocked, (hinv.pass_range hpass).1⟩

/-! ### Its preservation -/

/-- A waiting step that ends in a phase of the passes leaves the count and the locks as the new registers say. -/
theorem Advances.locksFirst_present {d : Draw} {s t : State} (h : Advances d s t) (hinv : s.Inv)
    (hs : passPhase s.seq.phase = true → LockedSinceTopo s.cfg.hwcrAddr s.seq.n (lockedCores s.seq) s.history)
    (ht : passPhase t.seq.phase = true) : LockedSinceTopo t.cfg.hwcrAddr t.seq.n (lockedCores t.seq) t.history := by
  cases h with
  | platSupported | platUnsupported | topoError | topoZero | topoTooMany | readError | lockError | broadcastError |
    broadcastLast => exact absurd ht Bool.false_ne_true
  | topoLock n => exact .start _ n s.history
  | topoBroadcast n _ _ _ _ htsc =>
    refine (LockedSinceTopo.start _ n s.history).mono ?_
    rw [lockedCores_of_bcWrWait rfl]
    simp [htsc]
  | readOk v hp =>
    have hlocked := hs (by rw [hp]; rfl)
    rw [lockedCores_of_tscRdWait hp] at hlocked
    exact hlocked.record (by simp)
  | lockNext hp _ hk =>
    have hlocked := hs (by rw [hp]; rfl)
    rw [lockedCores_of_tscWrWait hp] at hlocked
    rw [lockedCores_of_tscRdWait rfl, State.setSeq_seq, toNat_succ_of_lt hk]
    exact hlocked.lock (hinv.lock_bit hp)
  | lockLast hp _ hk =>
    have hlocked := hs (by rw [hp]; rfl)
    rw [lockedCores_of_tscWrWait hp] at hlocked
    exact (hlocked.lock (hinv.lock_bit hp)).mono ((lockedCores_le_of_bcWrWait rfl).trans hk)
  | broadcastNext hp =>
    have hlocked := hs (by rw [hp]; rfl)
    rw [lockedCores_of_bcWrWait hp] at hlocked
    rw [State.setSeq_seq, lockedCores_of_bcWrWait (q := { s.seq with k := s.seq.k + 1#64 }) hp]
    exact hlocked.record (by simp)

theorem Advances.cfg {d : Draw} {s t : State} (h : Advances d s t) : t.cfg = s.cfg := by
  cases h <;> rfl

/-- The event of a waiting step is no write to P-state register 0 unless that write was outstanding. -/
theorem Advances.locksFirst {d : Draw} {s t : State} (h : Advances d s t) (hinv : s.Inv) (hs : s.LocksFirst)
    (hne : s.cfg.hwcrAddr ≠ pstateBase) : t.LocksFirst where
  past := by
    obtain ⟨r, e, hr, hevent, hhistory⟩ := h.history
    rw [h.cfg, hhistory]
    refine hs.past.record fun k v a he => ?_
    subst he
    obtain ⟨mask, hwrite, rfl⟩ := hevent.of_write
    exact ⟨s.seq.n, locked_of_outstanding_base hinv hs hne (hr.trans (congrArg some hwrite))⟩
  present := h.locksFirst_present hinv hs.present

/-- A launch begins before TOPO has been answered. -/
theorem Launches.not_passPhase {i : Instr} {s t : State} (h : Launches s i t) : passPhase t.seq.phase = false := by
  cases h <;> rfl

theorem Ends.phase {s t : State} (h : Ends s t) : t.seq.phase = .idle := by
  cases h <;> rfl

theorem exec_locksFirst {i : Instr} {s t : State} (h : exec i s = .next t) (hs : s.LocksFirst) : t.LocksFirst := by
  obtain ⟨u, hu, hcfg, -, -, -, hhistory⟩ := exec_frame i s
  cases h.symm.trans hu
  refine ⟨by rw [hcfg, hhistory]; exact hs.past, fun hpass => ?_⟩
  obtain hend | hlaunch := exec_cases h
  · simp [hend.phase, passPhase] at hpass
  · exact absurd hpass (ne_true_of_eq_false hlaunch.not_passPhase)

theorem step_locksFirst {s t : State} (h : step s = .next t) (hinv : s.Inv) (hs : s.LocksFirst)
    (hne : s.cfg.hwcrAddr ≠ pstateBase) : t.LocksFirst := by
  obtain ⟨_, hm⟩ := step_moves h
  cases hm with
  | reset => exact .of_idle rfl (lockFirst_nil _)
  | command _ _ rest _ _ _ _ he =>
    have hs' : ({ s with host := rest } : State).LocksFirst := ⟨hs.past, hs.present⟩
    exact exec_locksFirst he hs'
  | illegal => exact .of_idle rfl hs.past
  | outside | poll | idle | unanswered => exact ⟨hs.past, hs.present⟩
  | answered left d rest _ hp =>
    have hs' : ({ s with host := left, draws := rest } : State).LocksFirst := ⟨hs.past, hs.present⟩
    exact (answered_advances hp d left rest).locksFirst (hinv.withInputs left rest) hs' hne

theorem run_locksFirst {n : Nat} {s t : State} (hinv : s.Inv) (hs : s.LocksFirst) (hne : s.cfg.hwcrAddr ≠ pstateBase)
    (h : runsTo n s t) : t.LocksFirst ∧ t.cfg = s.cfg := by
  induction n generalizing s with
  | zero => cases h; exact ⟨hs, rfl⟩
  | succ n ih =>
    obtain ⟨u, hu, hrun⟩ := run_succ_next h
    have hcfg := step_cfg hu
    obtain ⟨ht, hcfg'⟩ := ih (everyStepKeepsTheInvariant s u hinv hu) (step_locksFirst hu hinv hs hne) (hcfg ▸ hne) hrun
    exact ⟨ht, hcfg'.trans hcfg⟩

/-- Settles O48: `State.LocksFirst` holds of an idle state with an empty history and is kept along the run. -/
theorem tscLockPrecedesEveryBaseWrite : Obligations.TscLockPrecedesEveryBaseWrite := by
  unfold Obligations.TscLockPrecedesEveryBaseWrite
  intro n s t before after k v a hinv hb hempty hne h hhistory
  have hidle : s.seq.phase = .idle := by
    by_contra hp
    exact absurd (hinv.busy_phase.mpr hp) (ne_true_of_eq_false hb)
  have hs : s.LocksFirst := .of_idle hidle (hempty ▸ lockFirst_nil _)
  obtain ⟨ht, hcfg⟩ := run_locksFirst hinv hs hne h
  have hprefix : before ++ [.write k pstateBase v a] <+: t.history := ⟨after, by rw [hhistory]; simp [pstateBase]⟩
  obtain ⟨count, ⟨earlier, since, hbefore, htopo, hlocked⟩, hk⟩ := ht.past before k v a hprefix
  rw [hcfg] at hlocked
  exact ⟨count, earlier, since, hbefore, htopo, hk, hlocked⟩

end Sys2Proof.Machine
end

section
/-! PROOFS. Every command completes (spec/70_reset_and_hazards.md R330, R331): a command without requests in the step that accepts
it, CHKPLAT after at most one answer, and APPLY after at most `1 + 3 * MASK_WIDTH`, because its sequential program (spec/43_apply.md
R248) sends no more requests than that. -/

namespace Sys2Proof.Machine

/-! ### Counting requests -/

/-- From `io` to `io'` `m` requests were sent: each took a draw and left an event (R330). -/
structure Io.Answered (io : Io) (m : Nat) (io' : Io) : Prop where
  draws : io'.draws = io.draws.drop m
  events : io'.history.length = io.history.length + m

/-- The program, or a part of it, run from `io`, ends after at most `bound` requests. -/
def EndsWithin {β : Type} (out : β → Io) (bound : Nat) (io : Io) (r : Option β) : Prop :=
  ∃ x m, r = some x ∧ m ≤ bound ∧ io.Answered m (out x)

section
variable {io io₁ io' : Io} {m bound : Nat}

theorem Io.Answered.refl (io : Io) : io.Answered 0 io := ⟨rfl, rfl⟩

theorem Io.Answered.trans {m' : Nat} (h : io.Answered m io₁) (h' : io₁.Answered m' io') : io.Answered (m + m') io' where
  draws := by rw [h'.draws, h.draws, List.drop_drop]
  events := by rw [h'.events, h.events, Nat.add_assoc]

/-- Each request takes one draw. -/
theorem Io.Answered.draws_length (h : io.Answered m io') (hle : m ≤ bound) :
    io.draws.length ≤ io'.draws.length + bound := by
  rw [h.draws, List.length_drop]
  omega

theorem Io.Answered.of_event {d : Draw} {rest : List Draw} (hd : io.draws = d :: rest) (e : Env) (event : Event) :
    io.Answered 1 ⟨e, io.history ++ [event], rest⟩ where
  draws := by rw [hd]; rfl
  events := List.length_append

theorem EndsWithin.now {β : Type} {out : β → Io} {x : β} (h : io.Answered m (out x)) (hle : m ≤ bound) :
    EndsWithin out bound io (some x) :=
  ⟨x, m, rfl, hle, h⟩

theorem EndsWithin.after {β : Type} {out : β → Io} {r : Option β} {bound' : Nat} (h : io.Answered m io₁)
    (h' : EndsWithin out bound' io₁ r) (hle : m + bound' ≤ bound) : EndsWithin out bound io r := by
  obtain ⟨x, m', rfl, hm', hx⟩ := h'
  exact .now (h.trans hx) ((Nat.add_le_add_left hm' m).trans hle)

/-! ### The requests and the loops -/

/-- TOPO is answered where a draw is left. -/
theorem exists_ioTopo (h : 1 ≤ io.draws.length) : ∃ a io', ioTopo io = some (a, io') ∧ io.Answered 1 io' := by
  cases hio : ioTopo io with
  | none => simp [draws_of_ioTopo_none hio] at h
  | some r =>
    obtain ⟨a, io'⟩ := r
    obtain ⟨d, rest, hd, -, rfl⟩ := ioTopo_some hio
    exact ⟨a, _, rfl, .of_event hd _ _⟩

section
variable {addr hw : MsrAddr} {k : Nat} {v : Word}

/-- A READ is answered where a draw is left. -/
theorem exists_ioRead (h : 1 ≤ io.draws.length) :
    ∃ a io', ioRead addr k io = some (a, io') ∧ io.Answered 1 io' := by
  cases hio : ioRead addr k io with
  | none => simp [draws_of_ioRead_none hio] at h
  | some r =>
    obtain ⟨a, io'⟩ := r
    obtain ⟨d, rest, hd, -, rfl⟩ := ioRead_some hio
    exact ⟨a, _, rfl, .of_event hd _ _⟩

/-- A WRITE is answered where a draw is left. -/
theorem exists_ioWrite (h : 1 ≤ io.draws.length) :
    ∃ a io', ioWrite addr k v io = some (a, io') ∧ io.Answered 1 io' := by
  cases hio : ioWrite addr k v io with
  | none => simp [draws_of_ioWrite_none hio] at h
  | some r =>
    obtain ⟨a, io'⟩ := r
    obtain ⟨d, rest, hd, -, rfl⟩ := ioWrite_some hio
    exact ⟨a, _, rfl, .of_event hd _ _⟩

/-- The second loop sends at most one request per processor. -/
theorem writeLoop_endsWithin {left : Nat} (h : left ≤ io.draws.length) :
    EndsWithin Prod.snd left io (writeLoop addr v left k io) := by
  induction left generalizing k io with
  | zero => exact .now (.refl io) (Nat.le_refl 0)
  | succ left ih =>
    obtain ⟨answer, io₁, hio, hone⟩ := exists_ioWrite (addr := addr) (k := k) (v := v) (Nat.le_of_add_left_le h)
    cases answer with
    | err c =>
      rw [writeLoop_of_err hio]
      exact .now hone (Nat.le_add_left 1 left)
    | ok _ =>
      rw [writeLoop_of_ok hio]
      have hlength := hone.draws_length (Nat.le_refl 1)
      exact .after hone (ih (by omega)) (by omega)

/-- The first loop sends at most two requests per processor. -/
theorem lockLoop_endsWithin {left : Nat} (h : 2 * left ≤ io.draws.length) :
    EndsWithin Prod.snd (2 * left) io (lockLoop hw left k io) := by
  induction left generalizing k io with
  | zero => exact .now (.refl io) (Nat.le_refl 0)
  | succ left ih =>
    obtain ⟨answer, io₁, hread, hone⟩ := exists_ioRead (addr := hw) (k := k) (io := io) (by omega)
    have hlength := hone.draws_length (Nat.le_refl 1)
    cases answer with
    | err c =>
      rw [lockLoop_of_err hread]
      exact .now hone (by omega)
    | ok x =>
      rw [lockLoop_of_ok hread]
      obtain ⟨answer, io₂, hwrite, hnext⟩ :=
        exists_ioWrite (addr := hw) (k := k) (v := withTscLock x) (io := io₁) (by omega)
      have htwo := hone.trans hnext
      have hlength₂ := htwo.draws_length (Nat.le_refl 2)
      cases answer with
      | err c =>
        rw [lockWrite_of_err hwrite]
        exact .now htwo (by omega)
      | ok _ =>
        rw [lockWrite_of_ok hwrite]
        exact .after htwo (ih (by omega)) (by omega)

end

/-! ### The program -/

/-- What comes after a loop begins with the draws the loop has left. -/
theorem afterLoop_endsWithin {r : Option (Option ErrInfo × Io)} {next : Io → Option ApplyEnd} {bound' : Nat}
    (h : EndsWithin Prod.snd bound io r)
    (hnext : ∀ io', io.draws.length ≤ io'.draws.length + bound → EndsWithin ApplyEnd.io bound' io' (next io')) :
    EndsWithin ApplyEnd.io (bound + bound') io (afterLoop r next) := by
  obtain ⟨⟨failure, io'⟩, m, rfl, hm, hanswered⟩ := h
  cases failure with
  | some info => exact .now (x := ApplyEnd.mk .registerIoFailure info io') hanswered (Nat.le_add_right_of_le hm)
  | none => exact .after hanswered (hnext io' (hanswered.draws_length hm)) (Nat.add_le_add_right hm bound')

theorem broadcastPass_endsWithin {addr : MsrAddr} {v n : Word} (h : n.toNat ≤ io.draws.length) :
    EndsWithin ApplyEnd.io n.toNat io (broadcastPass addr v n io) :=
  afterLoop_endsWithin (writeLoop_endsWithin h) fun io' _ => .now (.refl io') (Nat.le_refl 0)

theorem lockPass_endsWithin {s : State} {n : Word} (h : 2 * n.toNat ≤ io.draws.length) :
    EndsWithin Prod.snd (2 * n.toNat) io (lockPass s n io) := by
  rw [lockPass]
  split
  · exact lockLoop_endsWithin h
  · exact .now (.refl io) (Nat.zero_le _)

theorem applyPasses_endsWithin {s : State} {n : Word} (h : 3 * n.toNat ≤ io.draws.length) :
    EndsWithin ApplyEnd.io (2 * n.toNat + n.toNat) io (applyPasses s n io) :=
  afterLoop_endsWithin (lockPass_endsWithin (by omega)) fun _ hleft => broadcastPass_endsWithin (by omega)

/-- TOPO, and the passes over at most `MASK_WIDTH` processors (R233). -/
theorem topoProgram_endsWithin {s : State} (h : 1 + 3 * s.cfg.maskWidth ≤ io.draws.length) :
    EndsWithin ApplyEnd.io (1 + 3 * s.cfg.maskWidth) io (topoProgram s io) := by
  obtain ⟨answer, io₁, htopo, hone⟩ := exists_ioTopo (io := io) (by omega)
  have hlength := hone.draws_length (Nat.le_refl 1)
  rw [topoProgram, htopo, Option.bind_some]
  refine .after hone (bound' := 3 * s.cfg.maskWidth) ?_ (Nat.le_refl _)
  cases answer with
  | err c => exact .now (.refl io₁) (Nat.zero_le _)
  | ok n =>
    simp only [afterTopo]
    split
    · exact .now (.refl io₁) (Nat.zero_le _)
    · split
      · exact .now (.refl io₁) (Nat.zero_le _)
      · exact .after (.refl io₁) (applyPasses_endsWithin (by omega)) (by omega)

end

theorem applyProgram_endsWithin {s : State} (h : 1 + 3 * s.cfg.maskWidth ≤ s.draws.length) :
    EndsWithin ApplyEnd.io (1 + 3 * s.cfg.maskWidth) s.io (applyProgram s) := by
  by_cases h0 : s.guard = guardUnchecked
  · rw [applyProgram_of_unchecked h0]
    exact .now (.refl s.io) (Nat.zero_le _)
  by_cases h2 : s.guard = guardUnsupported
  · rw [applyProgram_of_unsupported h2]
    exact .now (.refl s.io) (Nat.zero_le _)
  cases hv : s.slot.valid with
  | false =>
    rw [applyProgram_of_empty h0 h2 hv]
    exact .now (.refl s.io) (Nat.zero_le _)
  | true =>
    rw [applyProgram_of_held h0 h2 hv]
    exact topoProgram_endsWithin h

/-! ### The commands -/

/-- A presented command completes within `bound` requests, each of which took a draw and left an event. -/
def completesWithin (bound : Nat) (s : State) (rest : List HostMove) : Prop :=
  ∃ t waits, waits ≤ bound ∧ completesIn waits s t ∧ t.host = rest ∧ t.draws = s.draws.drop waits ∧
    t.history.length = s.history.length + waits

section
variable {s : State} {c : Command} {rest : List HostMove}

/-- A presented command that ends at once ends in the step that accepts it, with no request. -/
theorem completesIn_zero_of_ends {i : Instr} {t : State} (hp : presents s c rest) (hd : decode c = .legal i)
    (he : exec i { s with host := rest } = .next t) (hbusy : t.busy = false) :
    completesIn 0 s t ∧ t.host = rest ∧ t.draws = s.draws ∧ t.history = s.history := by
  obtain ⟨hc, hb, hh, -⟩ := hp
  obtain ⟨u, hu, -, -, hhost, hdraws, hhistory⟩ := exec_frame i { s with host := rest }
  cases he.symm.trans hu
  have hstep : step s = .next t := (step_of_command hc hb hh).trans ((acceptCommand_of_legal hd _).trans he)
  exact ⟨completesIn_of_step hstep (finishesIn_zero hbusy), hhost, hdraws, hhistory⟩

/-- The answer to PLAT ends CHKPLAT (spec/43_apply.md R221). -/
theorem platStep_ends (d : Draw) (s : State) :
    (platStep d s).busy = false ∧ (platStep d s).host = s.host ∧ (platStep d s).draws = s.draws ∧
      (platStep d s).history.length = s.history.length + 1 := by
  cases ha : platAnswer s.env d with
  | true => rw [platStep_of_supported ha]; simp
  | false => rw [platStep_of_unsupported ha]; simp

/-- CHKPLAT ends at once, or with the answer to its one request. -/
theorem chkplat_completesWithin (hp : presents s c rest) (hd : decode c = .legal .chkplat) (h : 1 ≤ s.draws.length) :
    completesWithin 1 s rest := by
  obtain ⟨t, ht, -⟩ := exec_frame .chkplat { s with host := rest }
  obtain hend | hlaunch := exec_cases ht
  · obtain ⟨hcompletes, hhost, hdraws, hhistory⟩ := completesIn_zero_of_ends hp hd ht hend.busy
    exact ⟨t, 0, Nat.zero_le 1, hcompletes, hhost, hdraws, congrArg List.length hhistory⟩
  · obtain ⟨hc, hb, hh, hcmds⟩ := hp
    obtain ⟨d, draws, hdraws⟩ := List.exists_cons_of_length_pos h
    have haccept : step s = .next t := (step_of_command hc hb hh).trans ((acceptCommand_of_legal hd _).trans ht)
    cases hlaunch
    obtain ⟨hidle, hhost, hleft, hlength⟩ := platStep_ends d
      { (({ s with host := rest } : State).clearErr.await { s.seq with phase := .platWait }) with draws := draws }
    refine ⟨_, 1, Nat.le_refl 1, completesIn_of_step haccept
      (finishesIn_succ rfl (step_of_platWait ⟨hc, rfl, rfl, hcmds, hdraws⟩) (finishesIn_zero hidle)), hhost, ?_, hlength⟩
    rw [hleft, hdraws]
    rfl

/-- APPLY ends as its sequential program does, after one step for each request of the program. -/
theorem apply_completesWithin (hp : presents s c rest) (hd : decode c = .legal .apply)
    (h : 1 + 3 * s.cfg.maskWidth ≤ s.draws.length) : completesWithin (1 + 3 * s.cfg.maskWidth) s rest := by
  obtain ⟨e, m, he, hm, hdraws, hevents⟩ := applyProgram_endsWithin h
  obtain ⟨waits, q, hcompletes, hlength⟩ := completesIn_of_applyProgram hp hd he
  obtain rfl : waits = m := Nat.add_left_cancel (hlength.symm.trans hevents)
  exact ⟨_, waits, hm, hcompletes, rfl, hdraws, hlength⟩

end

/-- Settles O49: one lemma per kind of command. -/
theorem everyCommandCompletesInBoundedSteps : Obligations.EveryCommandCompletesInBoundedSteps := by
  unfold Obligations.EveryCommandCompletesInBoundedSteps
  intro s c rest hp
  refine ⟨fun i hd hchkplat happly => ?_, chkplat_completesWithin hp, apply_completesWithin hp⟩
  obtain ⟨t, ht, -⟩ := exec_frame i { s with host := rest }
  exact ⟨t, completesIn_zero_of_ends hp hd ht (exec_ends hchkplat happly ht).busy⟩

end Sys2Proof.Machine
end
